-- ==== Sys2Proof/Word.lean ====
section
/-! DEFINITION. The value types of the machine: bytes, 16-bit words and the operand fields of an opcode
(spec/00_scope.md R9, R10; spec/30_encoding.md R81). Every value is unsigned. -/

namespace Sys2Proof

/-- An unsigned 8-bit value: a general register, a timer, a memory cell (R20, R30, R60). -/
abbrev Byte := BitVec 8

/-- An unsigned 16-bit value: I, pc, a stack entry, an opcode word (R24, R26, R28, R80). -/
abbrev Word := BitVec 16

/-- A 4-bit register index, the field x or y of an opcode: every value names a register (R20, R81). -/
abbrev Reg := BitVec 4

/-- The 12-bit address immediate nnn (R81, R83). -/
abbrev Addr12 := BitVec 12

/-- A key index, 0x0..0xF (R33). -/
abbrev Key := Fin 16

end Sys2Proof
end

