-- ==== Sys2Proof/Syntax.lean ====
section
/-! DEFINITION. The 36 instruction forms, one constructor per row of spec/opcode_table.json and in its order
(spec/30_encoding.md R84, R95). A constructor holds every field of its word that is not fixed, so that the word
can be written back; register operands are the fields x and y, immediates the fields n, kk and nnn (R81). -/

namespace Sys2Proof

inductive Instr where
  /-- 00E0, clear the display (R170). -/
  | cls
  /-- 00EE, return from subroutine (R120). -/
  | ret
  /-- 0NNN other than 00E0 and 00EE, ignored (R107). -/
  | sys (nnn : Addr12)
  /-- 1NNN, jump (R121). -/
  | jp (nnn : Addr12)
  /-- 2NNN, call subroutine (R122). -/
  | call (nnn : Addr12)
  /-- 3XKK, skip if V[x] = kk (R130). -/
  | seImm (x : Reg) (kk : Byte)
  /-- 4XKK, skip if V[x] ≠ kk (R131). -/
  | sneImm (x : Reg) (kk : Byte)
  /-- 5XY0, skip if V[x] = V[y] (R132). -/
  | seReg (x y : Reg)
  /-- 6XKK, load immediate (R141). -/
  | ldImm (x : Reg) (kk : Byte)
  /-- 7XKK, add immediate without flag (R142). -/
  | addImm (x : Reg) (kk : Byte)
  /-- 8XY0, copy register (R143). -/
  | ldReg (x y : Reg)
  /-- 8XY1, bitwise or (R144). -/
  | orReg (x y : Reg)
  /-- 8XY2, bitwise and (R145). -/
  | andReg (x y : Reg)
  /-- 8XY3, bitwise exclusive or (R146). -/
  | xorReg (x y : Reg)
  /-- 8XY4, add with carry into VF (R147). -/
  | addReg (x y : Reg)
  /-- 8XY5, subtract, VF = not borrow (R148). -/
  | subReg (x y : Reg)
  /-- 8XY6, shift right by one; y is decoded and ignored (R149, R93). -/
  | shr (x y : Reg)
  /-- 8XY7, reverse subtract, VF = not borrow (R150). -/
  | subnReg (x y : Reg)
  /-- 8XYE, shift left by one; y is decoded and ignored (R151, R93). -/
  | shl (x y : Reg)
  /-- 9XY0, skip if V[x] ≠ V[y] (R133). -/
  | sneReg (x y : Reg)
  /-- ANNN, load the index register (R160). -/
  | ldIndex (nnn : Addr12)
  /-- BNNN, jump to V0 + nnn (R123). -/
  | jpV0 (nnn : Addr12)
  /-- CXKK, random byte masked by kk (R152). -/
  | rnd (x : Reg) (kk : Byte)
  /-- DXYN, draw an 8 × n sprite (R171). -/
  | drw (x y : Reg) (n : BitVec 4)
  /-- EX9E, skip if the key V[x] is held (R180). -/
  | skp (x : Reg)
  /-- EXA1, skip if the key V[x] is not held (R181). -/
  | sknp (x : Reg)
  /-- FX07, read the delay timer (R183). -/
  | ldVDt (x : Reg)
  /-- FX0A, wait for a key press by re-execution (R182). -/
  | ldVKey (x : Reg)
  /-- FX15, set the delay timer (R184). -/
  | ldDtV (x : Reg)
  /-- FX18, set the sound timer (R185). -/
  | ldStV (x : Reg)
  /-- FX1E, add a register to I (R161). -/
  | addIndex (x : Reg)
  /-- FX29, point I at a font glyph (R162). -/
  | ldFont (x : Reg)
  /-- FX33, store the decimal digits (R163). -/
  | ldBcd (x : Reg)
  /-- FX55, store V[0..x] (R164). -/
  | storeRegs (x : Reg)
  /-- FX65, load V[0..x] (R165). -/
  | loadRegs (x : Reg)
  /-- A word that matches no pattern, the words of R92 (R108). -/
  | unrecognized (op : Word)
deriving DecidableEq, Repr

end Sys2Proof
end

