-- ==== Sys2Proof/WellFormed.lean ====
section
/-! DEFINITION. Which terms of Instr stand for an instruction word: SYS excludes the two fixed words of class 0
(spec/30_encoding.md R86), and UNRECOGNIZED holds exactly the words of R92. Every operand of the other forms
admits every value of its field. -/

namespace Sys2Proof

/-- The unrecognized space, row by row as the table of R92 lists it. -/
def unrecognizedWord (op : Word) : Bool :=
  let op4 := op.extractLsb' 12 4
  let n := op.extractLsb' 0 4
  let kk := op.extractLsb' 0 8
  (op4 == 0x5#4 && n != 0x0#4)
  || (op4 == 0x8#4 && [0x8#4, 0x9#4, 0xA#4, 0xB#4, 0xC#4, 0xD#4, 0xF#4].contains n)
  || (op4 == 0x9#4 && n != 0x0#4)
  || (op4 == 0xE#4 && !([0x9E#8, 0xA1#8].contains kk))
  || (op4 == 0xF#4 && !([0x07#8, 0x0A#8, 0x15#8, 0x18#8, 0x1E#8, 0x29#8, 0x33#8, 0x55#8, 0x65#8].contains kk))

/-- The check of an instruction term. -/
def Instr.wellFormed : Instr → Bool
  | .cls => true
  | .ret => true
  | .sys nnn => nnn != 0x0E0#12 && nnn != 0x0EE#12
  | .jp _ => true
  | .call _ => true
  | .seImm _ _ => true
  | .sneImm _ _ => true
  | .seReg _ _ => true
  | .ldImm _ _ => true
  | .addImm _ _ => true
  | .ldReg _ _ => true
  | .orReg _ _ => true
  | .andReg _ _ => true
  | .xorReg _ _ => true
  | .addReg _ _ => true
  | .subReg _ _ => true
  | .shr _ _ => true
  | .subnReg _ _ => true
  | .shl _ _ => true
  | .sneReg _ _ => true
  | .ldIndex _ => true
  | .jpV0 _ => true
  | .rnd _ _ => true
  | .drw _ _ _ => true
  | .skp _ => true
  | .sknp _ => true
  | .ldVDt _ => true
  | .ldVKey _ => true
  | .ldDtV _ => true
  | .ldStV _ => true
  | .addIndex _ => true
  | .ldFont _ => true
  | .ldBcd _ => true
  | .storeRegs _ => true
  | .loadRegs _ => true
  | .unrecognized op => unrecognizedWord op

end Sys2Proof
end

