-- ==== Sys2Proof/Decode.lean ====
section
/-! DEFINITION. The decoder of spec/30_encoding.md R80..R93 and, after it, the encoder written from the same
patterns. Decoding is total: every word has a form, and the words of R92 decode to UNRECOGNIZED; bytes too few
for an opcode are rejected by name. -/

namespace Sys2Proof

/-! ## The fields of an opcode word (R81) -/

/-- op4, the major class, op[15:12]. -/
def opClass (op : Word) : BitVec 4 := op.extractLsb' 12 4
/-- x, the first register index, op[11:8]. -/
def fieldX (op : Word) : Reg := op.extractLsb' 8 4
/-- y, the second register index, op[7:4]. -/
def fieldY (op : Word) : Reg := op.extractLsb' 4 4
/-- n, op[3:0]. -/
def fieldN (op : Word) : BitVec 4 := op.extractLsb' 0 4
/-- kk, op[7:0]. -/
def fieldKK (op : Word) : Byte := op.extractLsb' 0 8
/-- nnn, op[11:0]. -/
def fieldNNN (op : Word) : Addr12 := op.extractLsb' 0 12

/-! ## The decoder -/

/-- Class 0 (R86): the two fixed words come before SYS. -/
def decodeClass0 (op : Word) : Instr :=
  if op = 0x00E0#16 then .cls else if op = 0x00EE#16 then .ret else .sys (fieldNNN op)

/-- Class 8 (R89), selected by n. -/
def decodeClass8 (op : Word) : Instr :=
  let x := fieldX op
  let y := fieldY op
  match fieldN op with
  | 0x0#4 => .ldReg x y
  | 0x1#4 => .orReg x y
  | 0x2#4 => .andReg x y
  | 0x3#4 => .xorReg x y
  | 0x4#4 => .addReg x y
  | 0x5#4 => .subReg x y
  | 0x6#4 => .shr x y
  | 0x7#4 => .subnReg x y
  | 0xE#4 => .shl x y
  | _ => .unrecognized op

/-- Class E (R90), selected by kk. -/
def decodeClassE (op : Word) : Instr :=
  match fieldKK op with
  | 0x9E#8 => .skp (fieldX op)
  | 0xA1#8 => .sknp (fieldX op)
  | _ => .unrecognized op

/-- Class F (R91), selected by kk. -/
def decodeClassF (op : Word) : Instr :=
  let x := fieldX op
  match fieldKK op with
  | 0x07#8 => .ldVDt x
  | 0x0A#8 => .ldVKey x
  | 0x15#8 => .ldDtV x
  | 0x18#8 => .ldStV x
  | 0x1E#8 => .addIndex x
  | 0x29#8 => .ldFont x
  | 0x33#8 => .ldBcd x
  | 0x55#8 => .storeRegs x
  | 0x65#8 => .loadRegs x
  | _ => .unrecognized op

/-- The decode function of R85; the last alternative is class F. -/
def decode (op : Word) : Instr :=
  match opClass op with
  | 0x0#4 => decodeClass0 op
  | 0x1#4 => .jp (fieldNNN op)
  | 0x2#4 => .call (fieldNNN op)
  | 0x3#4 => .seImm (fieldX op) (fieldKK op)
  | 0x4#4 => .sneImm (fieldX op) (fieldKK op)
  | 0x5#4 => if fieldN op = 0x0#4 then .seReg (fieldX op) (fieldY op) else .unrecognized op
  | 0x6#4 => .ldImm (fieldX op) (fieldKK op)
  | 0x7#4 => .addImm (fieldX op) (fieldKK op)
  | 0x8#4 => decodeClass8 op
  | 0x9#4 => if fieldN op = 0x0#4 then .sneReg (fieldX op) (fieldY op) else .unrecognized op
  | 0xA#4 => .ldIndex (fieldNNN op)
  | 0xB#4 => .jpV0 (fieldNNN op)
  | 0xC#4 => .rnd (fieldX op) (fieldKK op)
  | 0xD#4 => .drw (fieldX op) (fieldY op) (fieldN op)
  | 0xE#4 => decodeClassE op
  | _ => decodeClassF op

/-- Why bytes hold no opcode. -/
inductive DecodeReject where
  /-- Fewer than the two bytes of an opcode (R80). -/
  | truncated
deriving DecidableEq, Repr

/-- The opcode word of two consecutive bytes, the first the more significant (R65). -/
def wordOfBytes (hi lo : Byte) : Word := hi ++ lo

/-- Decode the opcode at the head of a byte sequence, and give what follows it. -/
def decodeBytes : List Byte → Except DecodeReject (Instr × List Byte)
  | hi :: lo :: rest => .ok (decode (wordOfBytes hi lo), rest)
  | [_] => .error .truncated
  | [] => .error .truncated

/-! ## The encoder -/

/-- A word of the form 0x_NNN. -/
def wordNNN (op4 : BitVec 4) (nnn : Addr12) : Word := op4 ++ nnn
/-- A word of the form 0x_XKK. -/
def wordXKK (op4 : BitVec 4) (x : Reg) (kk : Byte) : Word := op4 ++ (x ++ kk : BitVec 12)
/-- A word of the form 0x_XYN. -/
def wordXYN (op4 : BitVec 4) (x y : Reg) (n : BitVec 4) : Word := op4 ++ (x ++ (y ++ n : BitVec 8) : BitVec 12)

/-- The word of an instruction, from the patterns of R95. -/
def encode : Instr → Word
  | .cls => 0x00E0#16
  | .ret => 0x00EE#16
  | .sys nnn => wordNNN 0x0#4 nnn
  | .jp nnn => wordNNN 0x1#4 nnn
  | .call nnn => wordNNN 0x2#4 nnn
  | .seImm x kk => wordXKK 0x3#4 x kk
  | .sneImm x kk => wordXKK 0x4#4 x kk
  | .seReg x y => wordXYN 0x5#4 x y 0x0#4
  | .ldImm x kk => wordXKK 0x6#4 x kk
  | .addImm x kk => wordXKK 0x7#4 x kk
  | .ldReg x y => wordXYN 0x8#4 x y 0x0#4
  | .orReg x y => wordXYN 0x8#4 x y 0x1#4
  | .andReg x y => wordXYN 0x8#4 x y 0x2#4
  | .xorReg x y => wordXYN 0x8#4 x y 0x3#4
  | .addReg x y => wordXYN 0x8#4 x y 0x4#4
  | .subReg x y => wordXYN 0x8#4 x y 0x5#4
  | .shr x y => wordXYN 0x8#4 x y 0x6#4
  | .subnReg x y => wordXYN 0x8#4 x y 0x7#4
  | .shl x y => wordXYN 0x8#4 x y 0xE#4
  | .sneReg x y => wordXYN 0x9#4 x y 0x0#4
  | .ldIndex nnn => wordNNN 0xA#4 nnn
  | .jpV0 nnn => wordNNN 0xB#4 nnn
  | .rnd x kk => wordXKK 0xC#4 x kk
  | .drw x y n => wordXYN 0xD#4 x y n
  | .skp x => wordXKK 0xE#4 x 0x9E#8
  | .sknp x => wordXKK 0xE#4 x 0xA1#8
  | .ldVDt x => wordXKK 0xF#4 x 0x07#8
  | .ldVKey x => wordXKK 0xF#4 x 0x0A#8
  | .ldDtV x => wordXKK 0xF#4 x 0x15#8
  | .ldStV x => wordXKK 0xF#4 x 0x18#8
  | .addIndex x => wordXKK 0xF#4 x 0x1E#8
  | .ldFont x => wordXKK 0xF#4 x 0x29#8
  | .ldBcd x => wordXKK 0xF#4 x 0x33#8
  | .storeRegs x => wordXKK 0xF#4 x 0x55#8
  | .loadRegs x => wordXKK 0xF#4 x 0x65#8
  | .unrecognized op => op

/-- The two bytes of a word as memory holds them, the more significant first (R65). -/
def bytesOfWord (op : Word) : List Byte := [op.extractLsb' 8 8, op.extractLsb' 0 8]

/-! ## The opcode table's numbering -/

/-- The instruction read from a word numbered as spec/opcode_table.json numbers it: the low `nbits` bits of `w`,
the rest of the 16 bits zero, laid out as memory holds them (log entry 17). -/
def decodeTableWord (nbits w : Nat) : Option Instr :=
  match decodeBytes (bytesOfWord (BitVec.ofNat 16 (w % 2 ^ nbits))) with
  | .ok (i, _) => some i
  | .error _ => none

end Sys2Proof
end

