-- ==== Sys2Proof/Config.lean ====
section
/-! DEFINITION. What the spec leaves open (spec/00_scope.md R8): the two parameters that are plain data, and the
free values MEM_INIT and RNG, which have no body, so that a claim holds for every value of them. -/

namespace Sys2Proof

/-- DRW_COORD_READ (R8, D12): when DXYN reads V[x] and V[y] relative to its writes of VF. -/
inductive CoordRead where
  /-- Both coordinates are read once, before VF is cleared: the spec's default. -/
  | latched
  /-- Each pixel reads V[x] and V[y] anew, after the VF clear and after any collision write before it. -/
  | perPixel
deriving DecidableEq, Repr

/-- The parameters the machine is given as data (R8). They never change while it runs. -/
structure Params where
  /-- DRW_COORD_READ. -/
  drwCoordRead : CoordRead
  /-- FX0A_SELECT as a table: a set of held keys, listed in ascending order, and the key chosen from it.
  A set that is not listed, or is listed with a key outside it, takes the spec's default, its lowest key.
  Every function from non-empty key sets to a member is such a table. -/
  keyChoice : List (List Key × Key)
deriving DecidableEq, Repr

/-- The spec's defaults (R8): LATCHED and the lowest pressed key index. -/
def Params.default : Params := { drwCoordRead := .latched, keyChoice := [] }

/-- MEM_INIT (R8, D7): the byte at an address that neither the Loader nor a store has written.
DESIGN CHOICE (log entry 4), safe: a free value. -/
opaque Config.memInit : Nat → Byte

/-- RNG (R8, R152, D18): the byte that the n-th execution of CXKK draws.
DESIGN CHOICE (log entry 6), safe: a free value. -/
opaque Config.rnd : Nat → Byte

end Sys2Proof
end

