-- ==== Sys2Proof/Machine/State.lean ====
section
/-! DEFINITION. The state of the machine as plain data (spec/10_state.md R20..R41, spec/20_memory.md R60), the
reasons a step can stop, and the state right after reset. -/

namespace Sys2Proof.Machine

/-- The causes of a bounds error (spec/60_exceptions.md R202). -/
inductive FaultCause where
  /-- No fault recorded. -/
  | none
  /-- A fetch with pc > 4094. -/
  | fetchBounds
  /-- A data access above 4095. -/
  | memBounds
  /-- CALL with SP = 16. -/
  | stackOverflow
  /-- RET with SP = 0. -/
  | stackUnderflow
  /-- EX9E or EXA1 with V[x] > 15. -/
  | keyRange
deriving DecidableEq, Repr

/-- The display buffer: Disp[r][c] with row r in 0..31, row 0 at the top, and column c in 0..63 (R32). -/
abbrev Display := Vector (Vector Bool 64) 32

/-- A decode-error event, carrying the pc and the opcode word (R52, R206). -/
structure DecodeReport where
  pc : Word
  opcode : Word
deriving DecidableEq, Repr

/-- The data inputs at reset (R51): the program image, FONT, and MEM_INIT as the bytes the host gives for it;
an address that is not among them keeps its free MEM_INIT byte. -/
structure BootImage where
  image : List Byte
  font : Vector Byte 80
  memInit : List Host.Cell
deriving DecidableEq, Repr

/-- One indivisible transaction on the state, requested by one of the three agents (R50, R53, R221, R223). -/
inductive Transaction where
  /-- step_req: the interpreter executes one instruction (R100). -/
  | step
  /-- tick_req: the timer countdown engine counts (R214). -/
  | tick
  /-- The host presses (true) or releases (false) a key (R33). -/
  | setKey (k : Key) (held : Bool)
  /-- redraw_clear: the host has captured the display and clears redraw (R34, R222). -/
  | clearRedraw
  /-- reset: the host resets the CORE and the Loader boots it (R240). -/
  | reset (boot : BootImage)
deriving DecidableEq, Repr

/-- Everything the spec gives the machine, and below it the model's own fields (log entries 2, 6, 7, 8, 13). -/
structure State where
  /-- V[0]..V[15]; V[15] is VF (R20, R21). -/
  v : Vector Byte 16
  /-- The index register I (R24). -/
  i : Word
  /-- The program counter (R26). -/
  pc : Word
  /-- Stack[0]..Stack[15] (R28). -/
  stack : Vector Word 16
  /-- SP, the number of live entries, 0..16 (R29). -/
  sp : Fin 17
  /-- The delay timer DT (R30). -/
  dt : Byte
  /-- The sound timer ST (R31). -/
  st : Byte
  /-- The display buffer (R32). -/
  disp : Display
  /-- The redraw flag (R34). -/
  redraw : Bool
  /-- Key[0]..Key[15], true while the key is held (R33). -/
  keys : Vector Bool 16
  /-- Memory: the written cells, addresses strictly rising (R60; Memory.wf in Machine/Ops.lean). -/
  mem : List Host.Cell
  /-- The status record (R35): a bounds error has stopped the machine. -/
  halted : Bool
  faultCause : FaultCause
  faultPc : Word
  faultOpcode : Word
  /-- The model's own: the parameters that are data (R8). -/
  params : Params
  /-- The model's own: how many RNG bytes have been drawn (R152). -/
  draws : Nat
  /-- The model's own: the decode-error events emitted so far, oldest first (R52, R206). -/
  reports : List DecodeReport
  /-- The model's own: the transactions requested, the next one first; with none requested the driver goes on
  requesting steps (R8 SCHEDULE, R53). -/
  schedule : List Transaction
deriving DecidableEq, Repr

/-- Why the machine is stuck. -/
inductive Fault where
  /-- Raised by step alone: a bounds error with this cause has halted the machine, and nothing that is requested has a
  transition (R101, R205). Safe: the spec gives no transition here. -/
  | halted (cause : FaultCause)
deriving DecidableEq, Repr

/-- Why a step gives no run. -/
inductive Refusal where
  /-- Raised by exec's arm of an instruction that has no meaning yet; no arm is left so. Safe. -/
  | notModelled (mnemonic : String)
  /-- Raised by the reset transaction for a program image over 3584 bytes: the Loader fails and the session does not
  start (R243). Safe: the spec gives no run here. -/
  | imageTooLong
deriving DecidableEq, Repr

/-- The state right after reset with no program image (R41): pc = 512, the values the spec decides for what the
source leaves open (log entry 9), no key held (log entry 10), memory with nothing listed (log entries 4, 5), and
the model's own fields at their start. -/
def State.reset : State where
  v := Vector.replicate 16 0
  i := 0
  pc := 0x200
  stack := Vector.replicate 16 0
  sp := 0
  dt := 0
  st := 0
  disp := Vector.replicate 32 (Vector.replicate 64 false)
  redraw := false
  keys := Vector.replicate 16 false
  mem := []
  halted := false
  faultCause := .none
  faultPc := 0
  faultOpcode := 0
  params := Params.default
  draws := 0
  reports := []
  schedule := []

end Sys2Proof.Machine
end

