-- ==== Sys2Proof/Machine/Ops.lean ====
section
/-! DEFINITION. The named operations on memory, registers, the program counter, the display and the fault record;
fetching an opcode's bytes; and taking a bounds error, the machine's one exception
(spec/00_scope.md R11, spec/20_memory.md, spec/40_sequencer.md R102, R105, spec/60_exceptions.md R203). -/

namespace Sys2Proof.Machine

/-! ## Memory (R60..R69) -/

/-- MEM_SIZE (R7): the addresses are 0..4095. -/
def memSize : Nat := 4096

/-- PC_RESET and PROG_BASE (R7). -/
def progBase : Nat := 512

/-- The recommended FONT (R8, D8), glyph by glyph, five rows each, the top row first (R241).
PRESUMED (log entry 5), unsafe: the source does not give the bytes. -/
def fontBytes : List Byte :=
  [0xF0, 0x90, 0x90, 0x90, 0xF0] ++ [0x20, 0x60, 0x20, 0x20, 0x70] ++
  [0xF0, 0x10, 0xF0, 0x80, 0xF0] ++ [0xF0, 0x10, 0xF0, 0x10, 0xF0] ++
  [0x90, 0x90, 0xF0, 0x10, 0x10] ++ [0xF0, 0x80, 0xF0, 0x10, 0xF0] ++
  [0xF0, 0x80, 0xF0, 0x90, 0xF0] ++ [0xF0, 0x10, 0x20, 0x40, 0x40] ++
  [0xF0, 0x90, 0xF0, 0x90, 0xF0] ++ [0xF0, 0x90, 0xF0, 0x10, 0xF0] ++
  [0xF0, 0x90, 0xF0, 0x90, 0x90] ++ [0xE0, 0x90, 0xE0, 0x90, 0xE0] ++
  [0xF0, 0x80, 0x80, 0x80, 0xF0] ++ [0xE0, 0x90, 0x90, 0x90, 0xE0] ++
  [0xF0, 0x80, 0xF0, 0x80, 0xF0] ++ [0xF0, 0x80, 0xF0, 0x80, 0x80]

/-- What an unlisted address holds where the model knows it: the font at 0..79 (R41, R62). -/
def knownBoot (a : Nat) : Option Byte := fontBytes[a]?

/-- What an unlisted address reads as: its boot value (R69), the font byte at 0..79 and MEM_INIT elsewhere
(log entries 4, 5). -/
def bootByte (a : Nat) : Byte := (knownBoot a).getD (Config.memInit a)

/-- The listed byte at an address. -/
def Memory.lookup : List Host.Cell → Nat → Option Byte
  | [], _ => none
  | (b, w) :: m, a => if b = a then some w else Memory.lookup m a

/-- MemRead(a, 1). -/
def Memory.read (m : List Host.Cell) (a : Nat) : Byte := (Memory.lookup m a).getD (bootByte a)

/-- List a byte at an address, in place of what was listed there. -/
def Memory.insert : List Host.Cell → Nat → Byte → List Host.Cell
  | [], a, w => [(a, w)]
  | (b, u) :: m, a, w =>
    if a < b then (a, w) :: (b, u) :: m
    else if a = b then (a, w) :: m
    else (b, u) :: Memory.insert m a w

/-- Leave an address unlisted. -/
def Memory.erase (m : List Host.Cell) (a : Nat) : List Host.Cell := m.filter (fun c => c.1 != a)

/-- MemWrite(a, 1, w). Writing the byte the address is known to read as when unlisted removes its entry. -/
def Memory.write (m : List Host.Cell) (a : Nat) (w : Byte) : List Host.Cell :=
  if knownBoot a = some w then Memory.erase m a else Memory.insert m a w

/-- MemWrite of consecutive bytes, the first at the lowest address. -/
def Memory.writeBytes (m : List Host.Cell) (a : Nat) : List Byte → List Host.Cell
  | [] => m
  | w :: ws => Memory.writeBytes (Memory.write m a w) (a + 1) ws

/-- MemWrite of listed cells, in their order; a cell outside 0..4095 names no address and is passed over. -/
def Memory.writeCells (m : List Host.Cell) : List Host.Cell → List Host.Cell
  | [] => m
  | (a, w) :: cs => Memory.writeCells (if a < memSize then Memory.write m a w else m) cs

/-- The canonical form of memory: addresses strictly rising and in 0..4095, and no entry equal to what the address is
known to read as when unlisted. -/
abbrev Memory.wf (m : List Host.Cell) : Prop :=
  m.Pairwise (fun c d => c.1 < d.1) ∧ ∀ c ∈ m, c.1 < memSize ∧ knownBoot c.1 ≠ some c.2

/-- CheckMem(base, base + len − 1) (R11, R63, R64): whether every one of `len` consecutive addresses lies in 0..4095. The
addresses are exact naturals; an empty range passes. -/
def checkMem (base len : Nat) : Bool := len == 0 || decide (base + len ≤ memSize)

/-- The byte at an address. -/
def State.readByte (s : State) (a : Nat) : Byte := Memory.read s.mem a

/-- Store a byte at an address. -/
def State.writeByte (s : State) (a : Nat) (w : Byte) : State := { s with mem := Memory.write s.mem a w }

/-- Store consecutive bytes from an address on. -/
def State.writeBytes (s : State) (a : Nat) (ws : List Byte) : State := { s with mem := Memory.writeBytes s.mem a ws }

/-! ## Registers (R20..R31) -/

/-- VF, the carry, borrow and collision flag (R21). -/
def vf : Reg := 15#4

/-- V[x]. -/
def State.reg (s : State) (x : Reg) : Byte := s.v[x.toNat]'x.isLt

/-- V[x] <- b. -/
def State.setReg (s : State) (x : Reg) (b : Byte) : State := { s with v := s.v.set x.toNat b x.isLt }

/-- I <- w. -/
def State.setIndex (s : State) (w : Word) : State := { s with i := w }

/-- DT <- b. -/
def State.setDelay (s : State) (b : Byte) : State := { s with dt := b }

/-- ST <- b. -/
def State.setSound (s : State) (b : Byte) : State := { s with st := b }

/-! ## The next pc (R105) -/

/-- pc <- w. -/
def State.setPc (s : State) (w : Word) : State := { s with pc := w }

/-- Selection SEQ. -/
def State.seq (s : State) : State := s.setPc (s.pc + 2)

/-- Selection SKIP when the condition holds, SEQ otherwise. -/
def State.skipIf (s : State) (cond : Bool) : State := s.setPc (if cond then s.pc + 4 else s.pc + 2)

/-- Selection HOLD. -/
def State.hold (s : State) : State := s

/-! ## The return stack (R28, R29) -/

/-- Stack[SP] <- w; SP <- SP + 1, where SP < 16 (R122); a full stack has no entry SP, and SP stays. -/
def State.push (s : State) (w : Word) : State :=
  { s with stack := s.stack.setIfInBounds s.sp.val w, sp := ⟨min (s.sp.val + 1) 16, by omega⟩ }

/-- Stack[SP − 1], the entry a return reads where SP > 0. -/
def State.top (s : State) : Word := s.stack[s.sp.val - 1]'(by have := s.sp.isLt; omega)

/-- SP <- SP − 1; the entry keeps its value (R38). -/
def State.pop (s : State) : State := { s with sp := ⟨s.sp.val - 1, by have := s.sp.isLt; omega⟩ }

/-! ## Display and redraw (R32, R34) -/

/-- Disp[r][c]. -/
def State.pixel (s : State) (r : Fin 32) (c : Fin 64) : Bool := s.disp[r][c]

/-- Disp[r][c] <- Disp[r][c] ^ 1. -/
def State.flipPixel (s : State) (r : Fin 32) (c : Fin 64) : State :=
  { s with disp := s.disp.set r (s.disp[r].set c (!s.disp[r][c])) }

/-- Every pixel off. -/
def blankDisplay : Display := Vector.replicate 32 (Vector.replicate 64 false)

/-- Disp[r][c] <- 0 for every r and c. -/
def State.clearDisplay (s : State) : State := { s with disp := blankDisplay }

/-- redraw <- b. -/
def State.setRedraw (s : State) (b : Bool) : State := { s with redraw := b }

/-! ## Keys (R33) -/

/-- Key[k]. -/
def State.key (s : State) (k : Key) : Bool := s.keys[k]

/-- Key[k] <- b, a write of the host. -/
def State.writeKey (s : State) (k : Key) (b : Bool) : State := { s with keys := s.keys.set k b }

/-- The keys that are held, in ascending order. -/
def State.heldKeys (s : State) : List Key := (List.finRange 16).filter (fun k => s.key k)

/-- FX0A_SELECT (R8, D14): the key chosen from the held ones, none when no key is held. The table's entry counts
where it names a member; otherwise the lowest is chosen (log entry 8). -/
def selectKey (choice : List (List Key × Key)) (held : List Key) : Option Key :=
  match choice.lookup held with
  | some k => if held.contains k then some k else held.head?
  | none => held.head?

/-! ## The RNG input and the decode-error output (R51, R52) -/

/-- DrawByte(): the byte that the next CXKK draws, a free value (log entry 6). -/
def State.drawnByte (s : State) : Byte := Config.rnd s.draws

/-- One RNG byte has been consumed. -/
def State.countDraw (s : State) : State := { s with draws := s.draws + 1 }

/-- report DecodeError(pc, op) (R206): one event on the output, no architectural effect (log entry 13). -/
def State.report (s : State) (op : Word) : State := { s with reports := s.reports ++ [{ pc := s.pc, opcode := op }] }

/-! ## Fetch (R102) -/

/-- Fetch's only condition: pc ≤ 4094. -/
def State.fetchable (s : State) : Bool := decide (s.pc.toNat ≤ 4094)

/-- The opcode word at an address, big-endian (R65). -/
def State.wordAt (s : State) (a : Nat) : Word := wordOfBytes (s.readByte a) (s.readByte (a + 1))

/-- The opcode word that fetch reads at pc. -/
def State.fetchWord (s : State) : Word := s.wordAt s.pc.toNat

/-! ## Taking a bounds error (R203, R204) -/

/-- raise BoundsError(cause) for the opcode word `op`: the four writes of R203 and no other; pc stays. -/
def State.raise (s : State) (cause : FaultCause) (op : Word) : State :=
  { s with halted := true, faultCause := cause, faultPc := s.pc, faultOpcode := op }

/-- A bounds error raised by an instruction, whose word is the fetched one (log entry 12). There is no return from it:
only reset clears it (R205). -/
def takeBoundsError (cause : FaultCause) (i : Instr) (s : State) : Host.Outcome State Fault Refusal :=
  .next (s.raise cause (encode i))

/-- The number of a cause (R202). -/
def causeCode : FaultCause → Nat
  | .none => 0
  | .fetchBounds => 1
  | .memBounds => 2
  | .stackOverflow => 3
  | .stackUnderflow => 4
  | .keyRange => 5

end Sys2Proof.Machine
end

