-- ==== Sys2Proof/Machine/Agents.lean ====
section
/-! DEFINITION. The agents beside the interpreter, and the order in which transactions are served: the timer countdown
engine (spec/60_exceptions.md R214..R217), the host's actions and the outputs it reads (spec/10_state.md R50..R52,
spec/60_exceptions.md R221, R222), reset and the Loader (spec/70_reset_and_hazards.md R240..R246). -/

namespace Sys2Proof.Machine

/-! ## The timer countdown engine -/

/-- A timer's count: one less, and 0 stays 0 (R214). -/
def countDown (b : Byte) : Byte := if b = 0 then 0 else b - 1

/-- tick() (R214). -/
def tick (s : State) : State := (s.setDelay (countDown s.dt)).setSound (countDown s.st)

/-! ## The outputs (R52) -/

/-- The status outputs of R52. The display port is State.pixel, the decode-error events are State.reports, and the
inspection port is the state itself with State.readByte for memory. -/
structure Outputs where
  dt : Byte
  st : Byte
  soundOn : Bool
  redraw : Bool
  halted : Bool
  faultCause : Nat
  faultPc : Word
  faultOpcode : Word
deriving DecidableEq, Repr

/-- sound_on is true exactly when ST ≠ 0 (R217). -/
def State.soundOn (s : State) : Bool := s.st != 0

/-- What the output pins show; reading them changes nothing (R221). -/
def State.outputs (s : State) : Outputs :=
  { dt := s.dt, st := s.st, soundOn := s.soundOn, redraw := s.redraw, halted := s.halted,
    faultCause := causeCode s.faultCause, faultPc := s.faultPc, faultOpcode := s.faultOpcode }

/-- The host's poll (R222): the display is captured if redraw is set, and redraw is cleared, in one transaction. -/
def State.captureDisplay (s : State) : Option Display × State :=
  (if s.redraw then some s.disp else none, s.setRedraw false)

/-! ## Reset and the Loader -/

/-- MAX_IMAGE (R7). -/
def maxImage : Nat := 3584

/-- FONT's recommended value as the 80 bytes of a boot (log entry 5). -/
def defaultFont : Vector Byte 80 := Vector.mk fontBytes.toArray (by decide)

/-- The memory the Loader leaves (R240..R242): MEM_INIT, then FONT from 0, then the image from 512. -/
def bootMemory (b : BootImage) : List Host.Cell :=
  Memory.writeBytes (Memory.writeBytes (Memory.writeCells [] b.memInit) 0 b.font.toList) progBase b.image

/-- Reset (R240): every state element takes its reset value, and the Loader writes memory. The keys stay as the host
drives them (R41, R244), and so do the model's own fields (log entries 10, 14). -/
def bootState (b : BootImage) (s : State) : State :=
  { State.reset with
    mem := bootMemory b, keys := s.keys,
    params := s.params, draws := s.draws, reports := s.reports, schedule := s.schedule }

/-- Reset with the Loader's failure (R243): an image that would be written past address 4095 starts no session. -/
def resetWith (b : BootImage) (s : State) : Host.Outcome State Fault Refusal :=
  if b.image.length ≤ maxImage then .next (bootState b s) else .refused .imageTooLong

/-! ## The schedule -/

/-- Whether a request has a transition (R101, R205): while halted, neither a step nor a tick has one. -/
def Transaction.enabled (halted : Bool) : Transaction → Bool
  | .step => !halted
  | .tick => !halted
  | .setKey _ _ => true
  | .clearRedraw => true
  | .reset _ => true

/-- The transaction that is served next and the requests left after it: the first request that has a transition; with no
request left the driver requests steps; none when nothing has a transition (log entries 2, 3). -/
def nextTransaction (halted : Bool) : List Transaction → Option (Transaction × List Transaction)
  | [] => if halted then none else some (.step, [])
  | r :: rs => if r.enabled halted then some (r, rs) else nextTransaction halted rs

/-- The requests left to serve. -/
def State.setSchedule (s : State) (rs : List Transaction) : State := { s with schedule := rs }

/-! ## Placing an instruction where the next step fetches it -/

/-- Where a step fetches: pc, or the entry point where pc is beyond the last fetchable address. -/
def State.fetchSlot (s : State) : Word := if s.fetchable then s.pc else 0x200

/-- The bytes of an opcode numbered as spec/opcode_table.json numbers it, stored at that place, with nothing before the
step: not halted, no request waiting (log entry 15). -/
def State.placeWord (s : State) (nbits w : Nat) : State :=
  { s with
    pc := s.fetchSlot
    mem := Memory.writeBytes s.mem s.fetchSlot.toNat (bytesOfWord (BitVec.ofNat 16 (w % 2 ^ nbits)))
    halted := false
    schedule := [] }

end Sys2Proof.Machine
end

