-- ==== Sys2Proof/Machine/Operands.lean ====
section
/-! DEFINITION. The operand forms: immediates, the key a register names, the bytes from I on, the glyph address,
the decimal digits and the coordinates of a sprite (spec/30_encoding.md R83 and the rules of the forms). -/

namespace Sys2Proof.Machine

/-- nnn, zero-extended and used directly as a 16-bit value (R83). -/
def addrOperand (nnn : Addr12) : Word := nnn.setWidth 16

/-- A register value as an addend of a 16-bit sum (R123, R161). -/
def wideOperand (b : Byte) : Word := b.setWidth 16

/-- The key that V[x] names; none when V[x] > 15, where the form raises KEY_RANGE (R180, R181). -/
def State.keyOperand (s : State) (x : Reg) : Option Key :=
  if h : (s.reg x).toNat < 16 then some ⟨(s.reg x).toNat, h⟩ else none

/-- CheckMem for the `len` bytes from I on (R163, R164, R165, R171). -/
def State.indexOk (s : State) (len : Nat) : Bool := checkMem s.i.toNat len

/-- The byte at I + k. -/
def State.indexByte (s : State) (k : Nat) : Byte := s.readByte (s.i.toNat + k)

/-- How many registers V[0..x] are: x + 1 (R164, R165). -/
def regCount (x : Reg) : Nat := x.toNat + 1

/-- The address of the glyph of a value, without a mask (R162): the product is exact, 0..1275. -/
def glyphAddress (b : Byte) : Word := wideOperand b * 5

/-- The decimal digits of a byte: hundreds, tens, ones (R163). -/
def decimalDigits (b : Byte) : List Byte :=
  [BitVec.ofNat 8 (b.toNat / 100), BitVec.ofNat 8 (b.toNat / 10 % 10), BitVec.ofNat 8 (b.toNat % 10)]

/-- The values of V[0..x], V[0] first (R164). -/
def State.regsUpTo (s : State) (x : Reg) : List Byte :=
  (List.range (regCount x)).map (fun j => s.reg (BitVec.ofNat 4 j))

/-- V[j] <- the byte at I + j, for j from 0 up to count − 1 (R165). -/
def State.loadRegs (s : State) (count : Nat) : State :=
  (List.range count).foldl (fun t j => t.setReg (BitVec.ofNat 4 j) (s.indexByte j)) s

/-- The coordinate base (V[x], V[y]) that a pixel of DXYN uses (R171): read from the state at the start of the
instruction under LATCHED, from the current one under PER_PIXEL. -/
def spriteBase (x y : Reg) (start now : State) : Byte × Byte :=
  match start.params.drwCoordRead with
  | .latched => (start.reg x, start.reg y)
  | .perPixel => (now.reg x, now.reg y)

/-- (by + row) mod 32: rows wrap (R171). -/
def screenRow (vy : Byte) (row : Nat) : Fin 32 := Fin.ofNat 32 (vy.toNat + row)

/-- (bx + col) mod 64: columns wrap (R171). -/
def screenCol (vx : Byte) (col : Nat) : Fin 64 := Fin.ofNat 64 (vx.toNat + col)

/-- s[7 − col], the bit of a sprite byte for a column, the most significant first (R171). -/
def spriteBit (b : Byte) (col : Nat) : Bool := b.getLsbD (7 - col)

end Sys2Proof.Machine
end

