-- ==== Sys2Proof/Machine/Flags.lean ====
section
/-! DEFINITION. The values written to VF as a flag (spec/10_state.md R36): carry, not borrow, the bit shifted out,
collision. -/

namespace Sys2Proof.Machine

/-- A flag as a register value: 1 or 0. -/
def flagByte (b : Bool) : Byte := if b then 1 else 0

/-- VF <- a flag. -/
def State.setFlag (s : State) (b : Bool) : State := s.setReg vf (flagByte b)

/-- 8XY4: the true sum is 256 or more (R147). -/
def carry (a b : Byte) : Bool := decide (256 ≤ a.toNat + b.toNat)

/-- 8XY5 and 8XY7: a − b borrows not, that is a ≥ b (R148, R150). -/
def notBorrow (a b : Byte) : Bool := decide (b.toNat ≤ a.toNat)

/-- 8XY6: bit 0 before the shift (R149). -/
def lowBit (a : Byte) : Bool := a.getLsbD 0

/-- 8XYE: bit 7 before the shift (R151). -/
def highBit (a : Byte) : Bool := a.getLsbD 7

end Sys2Proof.Machine
end

