-- ==== Sys2Proof/Machine/Alu.lean ====
section
/-! DEFINITION. Register arithmetic and logic (spec/43_alu.md R140..R152). The statements of a rule run in the order
written, so that with x = 15 the last write to VF decides its value (R140, D11). -/

namespace Sys2Proof.Machine

/-- V[x] <- b and selection SEQ, for a form that writes no flag. -/
def writeResult (x : Reg) (b : Byte) (s : State) : Host.Outcome State Fault Refusal := .next (s.setReg x b).seq

/-- VF <- flag, then V[x] <- b, and selection SEQ, where b was computed before the flag was written. -/
def writeFlagThenResult (flag : Bool) (x : Reg) (b : Byte) (s : State) : Host.Outcome State Fault Refusal :=
  .next ((s.setFlag flag).setReg x b).seq

/-- VF <- flag, then V[x] <- f(V[x]), where V[x] is read again after the flag was written (D11). -/
def writeFlagThenUpdate (flag : Bool) (x : Reg) (f : Byte → Byte) (s : State) : Host.Outcome State Fault Refusal :=
  let t := s.setFlag flag
  .next (t.setReg x (f (t.reg x))).seq

/-- R141. -/
def execLdImm (x : Reg) (kk : Byte) (s : State) : Host.Outcome State Fault Refusal := writeResult x kk s

/-- R142: modulo 256, no flag. -/
def execAddImm (x : Reg) (kk : Byte) (s : State) : Host.Outcome State Fault Refusal := writeResult x (s.reg x + kk) s

/-- R143. -/
def execLdReg (x y : Reg) (s : State) : Host.Outcome State Fault Refusal := writeResult x (s.reg y) s

/-- R144. -/
def execOrReg (x y : Reg) (s : State) : Host.Outcome State Fault Refusal := writeResult x (s.reg x ||| s.reg y) s

/-- R145. -/
def execAndReg (x y : Reg) (s : State) : Host.Outcome State Fault Refusal := writeResult x (s.reg x &&& s.reg y) s

/-- R146. -/
def execXorReg (x y : Reg) (s : State) : Host.Outcome State Fault Refusal := writeResult x (s.reg x ^^^ s.reg y) s

/-- R147: VF = carry. -/
def execAddReg (x y : Reg) (s : State) : Host.Outcome State Fault Refusal :=
  writeFlagThenResult (carry (s.reg x) (s.reg y)) x (s.reg x + s.reg y) s

/-- R148: VF = not borrow. -/
def execSubReg (x y : Reg) (s : State) : Host.Outcome State Fault Refusal :=
  writeFlagThenResult (notBorrow (s.reg x) (s.reg y)) x (s.reg x - s.reg y) s

/-- R149: VF = bit 0; the y field is not read. -/
def execShr (x _y : Reg) (s : State) : Host.Outcome State Fault Refusal :=
  writeFlagThenUpdate (lowBit (s.reg x)) x (· >>> 1) s

/-- R150: VF = not borrow of V[y] − V[x]. -/
def execSubnReg (x y : Reg) (s : State) : Host.Outcome State Fault Refusal :=
  writeFlagThenResult (notBorrow (s.reg y) (s.reg x)) x (s.reg y - s.reg x) s

/-- R151: VF = bit 7; the y field is not read. -/
def execShl (x _y : Reg) (s : State) : Host.Outcome State Fault Refusal :=
  writeFlagThenUpdate (highBit (s.reg x)) x (· <<< 1) s

/-- R152: the drawn byte is a free value (log entry 6). -/
def execRnd (x : Reg) (kk : Byte) (s : State) : Host.Outcome State Fault Refusal :=
  writeResult x (s.drawnByte &&& kk) s.countDraw

end Sys2Proof.Machine
end

