-- ==== Sys2Proof/Machine/Flow.lean ====
section
/-! DEFINITION. Control transfer: RET, JP, CALL, JP V0 (spec/41_flow.md R120..R123). -/

namespace Sys2Proof.Machine

/-- R120: return behind the CALL whose address is popped. -/
def execRet (s : State) : Host.Outcome State Fault Refusal :=
  if s.sp = 0 then takeBoundsError .stackUnderflow .ret s
  else .next (s.pop.setPc (s.top + 2))

/-- R121. -/
def execJp (nnn : Addr12) (s : State) : Host.Outcome State Fault Refusal := .next (s.setPc (addrOperand nnn))

/-- R122: push the address of this CALL itself. -/
def execCall (nnn : Addr12) (s : State) : Host.Outcome State Fault Refusal :=
  if s.sp = 16 then takeBoundsError .stackOverflow (.call nnn) s
  else .next ((s.push s.pc).setPc (addrOperand nnn))

/-- R123: always V[0]; the sum is not reduced modulo 4096. -/
def execJpV0 (nnn : Addr12) (s : State) : Host.Outcome State Fault Refusal :=
  .next (s.setPc (wideOperand (s.reg 0) + addrOperand nnn))

end Sys2Proof.Machine
end

