-- ==== Sys2Proof/Machine/Index.lean ====
section
/-! DEFINITION. The index register and the memory transfers (spec/44_index_memory.md R160..R165). A form that touches
memory checks its whole range first; none of them changes I as a side effect. -/

namespace Sys2Proof.Machine

/-- R160. -/
def execLdIndex (nnn : Addr12) (s : State) : Host.Outcome State Fault Refusal := .next (s.setIndex (addrOperand nnn)).seq

/-- R161: modulo 65536, no flag. -/
def execAddIndex (x : Reg) (s : State) : Host.Outcome State Fault Refusal :=
  .next (s.setIndex (s.i + wideOperand (s.reg x))).seq

/-- R162. -/
def execLdFont (x : Reg) (s : State) : Host.Outcome State Fault Refusal :=
  .next (s.setIndex (glyphAddress (s.reg x))).seq

/-- The bytes are stored from I on, and selection SEQ. -/
def storeAtIndex (bytes : List Byte) (s : State) : State := (s.writeBytes s.i.toNat bytes).seq

/-- R163. -/
def execLdBcd (x : Reg) (s : State) : Host.Outcome State Fault Refusal :=
  if s.indexOk 3 then .next (storeAtIndex (decimalDigits (s.reg x)) s)
  else takeBoundsError .memBounds (.ldBcd x) s

/-- R164. -/
def execStoreRegs (x : Reg) (s : State) : Host.Outcome State Fault Refusal :=
  if s.indexOk (regCount x) then .next (storeAtIndex (s.regsUpTo x) s)
  else takeBoundsError .memBounds (.storeRegs x) s

/-- R165. -/
def execLoadRegs (x : Reg) (s : State) : Host.Outcome State Fault Refusal :=
  if s.indexOk (regCount x) then .next (s.loadRegs (regCount x)).seq
  else takeBoundsError .memBounds (.loadRegs x) s

end Sys2Proof.Machine
end

