-- ==== Sys2Proof/Machine/Input.lean ====
section
/-! DEFINITION. Key input and timer transfers (spec/46_keys_timers.md R180..R185). -/

namespace Sys2Proof.Machine

/-- R180. -/
def execSkp (x : Reg) (s : State) : Host.Outcome State Fault Refusal :=
  match s.keyOperand x with
  | some k => .next (s.skipIf (s.key k))
  | none => takeBoundsError .keyRange (.skp x) s

/-- R181. -/
def execSknp (x : Reg) (s : State) : Host.Outcome State Fault Refusal :=
  match s.keyOperand x with
  | some k => .next (s.skipIf (!s.key k))
  | none => takeBoundsError .keyRange (.sknp x) s

/-- R183. -/
def execLdVDt (x : Reg) (s : State) : Host.Outcome State Fault Refusal := .next (s.setReg x s.dt).seq

/-- R182: a held key is chosen, or the step changes nothing and pc holds. -/
def execLdVKey (x : Reg) (s : State) : Host.Outcome State Fault Refusal :=
  match selectKey s.params.keyChoice s.heldKeys with
  | some k => .next (s.setReg x (BitVec.ofNat 8 k.val)).seq
  | none => .next s.hold

/-- R184. -/
def execLdDtV (x : Reg) (s : State) : Host.Outcome State Fault Refusal := .next (s.setDelay (s.reg x)).seq

/-- R185. -/
def execLdStV (x : Reg) (s : State) : Host.Outcome State Fault Refusal := .next (s.setSound (s.reg x)).seq

end Sys2Proof.Machine
end

