-- ==== Sys2Proof/Machine/System.lean ====
section
/-! DEFINITION. The forms with no effect but the pc advance: SYS and UNRECOGNIZED (spec/40_sequencer.md R107, R108). -/

namespace Sys2Proof.Machine

/-- R107: nothing is called, trapped or reported. -/
def execSys (_nnn : Addr12) (s : State) : Host.Outcome State Fault Refusal := .next s.seq

/-- R108: the word is reported, and execution goes on behind it. -/
def execUnrecognized (op : Word) (s : State) : Host.Outcome State Fault Refusal := .next (s.report op).seq

end Sys2Proof.Machine
end

