-- ==== Sys2Proof/Machine/Video.lean ====
section
/-! DEFINITION. The display forms (spec/45_display.md R170, R171). -/

namespace Sys2Proof.Machine

/-- R170: redraw is set even when no pixel was on. -/
def execCls (s : State) : Host.Outcome State Fault Refusal := .next (s.clearDisplay.setRedraw true).seq

/-- A set sprite bit meets its pixel (R171): a pixel that was on sets VF, then the pixel is flipped. -/
def plot (r : Fin 32) (c : Fin 64) (s : State) : State :=
  (if s.pixel r c then s.setReg vf 1 else s).flipPixel r c

/-- One column of a sprite row: a bit of 0 leaves its pixel as it was. -/
def drawColumn (base : State → Byte × Byte) (row : Nat) (bits : Byte) (s : State) (col : Nat) : State :=
  if spriteBit bits col then plot (screenRow (base s).2 row) (screenCol (base s).1 col) s else s

/-- One sprite row, columns 0..7 in order. -/
def drawRow (base : State → Byte × Byte) (s : State) (row : Nat) : State :=
  (List.range 8).foldl (drawColumn base row (s.indexByte row)) s

/-- The rows of a sprite in order. -/
def drawRows (base : State → Byte × Byte) (n : Nat) (s : State) : State := (List.range n).foldl (drawRow base) s

/-- R171: check the range, clear VF, draw, set redraw. With n = 0 no memory is read and no pixel changes. -/
def execDrw (x y : Reg) (n : BitVec 4) (s : State) : Host.Outcome State Fault Refusal :=
  if s.indexOk n.toNat then .next ((drawRows (spriteBase x y s) n.toNat (s.setReg vf 0)).setRedraw true).seq
  else takeBoundsError .memBounds (.drw x y n) s

end Sys2Proof.Machine
end

