-- ==== Sys2Proof/Machine/Cycle.lean ====
section
/-! DEFINITION. The step cycle (spec/40_sequencer.md R100) and the service of one transaction
(spec/10_state.md R53). -/

namespace Sys2Proof.Machine

/-- step() on a machine that is not halted (R100): fetch or raise FETCH_BOUNDS, decode, execute. -/
def instructionStep (s : State) : Host.Outcome State Fault Refusal :=
  if s.fetchable then exec (decode s.fetchWord) s else .next (s.raise .fetchBounds 0)

/-- The effect of one transaction (R100, R214, R221, R222, R240). -/
def serve (r : Transaction) (s : State) : Host.Outcome State Fault Refusal :=
  match r with
  | .step => instructionStep s
  | .tick => .next (tick s)
  | .setKey k held => .next (s.writeKey k held)
  | .clearRedraw => .next s.captureDisplay.2
  | .reset b => resetWith b s

/-- Serve the next transaction, or be stuck (R101, R205). -/
def serveNext (s : State) : Host.Outcome State Fault Refusal :=
  match nextTransaction s.halted s.schedule with
  | some (r, rest) => serve r (s.setSchedule rest)
  | none => .fault (.halted s.faultCause)

end Sys2Proof.Machine
end

