-- ==== Sys2Proof/Machine/Step.lean ====
section
/-! DEFINITION. The machine's step: one transaction (spec/10_state.md R53), which is one instruction unless the schedule
holds a request of another agent (log entry 2). -/

namespace Sys2Proof.Machine

/-- One transaction. -/
def step (s : State) : Host.Outcome State Fault Refusal := serveNext s

/-- The state with an instruction stored where the next step fetches, so that this step runs it. -/
def State.withFetchWord (s : State) (nbits w : Nat) : State := s.placeWord nbits w

end Sys2Proof.Machine
end

