-- ==== Sys2Proof/Safety.lean ====
section
/-! DEFINITION. The terms that claims use: what an instruction leaves unchanged, what each form may write, when it
faults, the invariant of the machine, and the ends of a run. Each table below is read from the spec's own lists
(spec/10_state.md R23..R34, spec/20_memory.md R68, spec/60_exceptions.md R202), not from the meanings. -/

namespace Sys2Proof.Machine

/-! ## Frames -/

/-- The parts of the state other than the general registers. -/
inductive Part where
  | index | pc | stack | delay | sound | display | redraw | keys | memory | faultRecord | draws | reports
  | params | schedule
deriving DecidableEq, Repr

/-- The part reads the same in both states; memory byte by byte. -/
def Part.same : Part → State → State → Prop
  | .index, s, t => t.i = s.i
  | .pc, s, t => t.pc = s.pc
  | .stack, s, t => t.sp = s.sp ∧ t.stack = s.stack
  | .delay, s, t => t.dt = s.dt
  | .sound, s, t => t.st = s.st
  | .display, s, t => ∀ r c, t.pixel r c = s.pixel r c
  | .redraw, s, t => t.redraw = s.redraw
  | .keys, s, t => ∀ k, t.key k = s.key k
  | .memory, s, t => ∀ a, t.readByte a = s.readByte a
  | .faultRecord, s, t =>
    t.halted = s.halted ∧ t.faultCause = s.faultCause ∧ t.faultPc = s.faultPc ∧ t.faultOpcode = s.faultOpcode
  | .draws, s, t => t.draws = s.draws
  | .reports, s, t => t.reports = s.reports
  | .params, s, t => t.params = s.params
  | .schedule, s, t => t.schedule = s.schedule

/-- Everything reads the same in `t` as in `s`, but for the registers in `regs` and the parts in `parts`. -/
def Frame (s t : State) (regs : Reg → Prop) (parts : List Part) : Prop :=
  (∀ r, ¬ regs r → t.reg r = s.reg r) ∧ ∀ p, p ∉ parts → p.same s t

/-- No general register. -/
def noReg (_ : Reg) : Prop := False

/-- The general registers a form may write: its destination, and VF where the form writes it as a flag (R23, R36). -/
def writtenReg : Instr → Reg → Prop
  | .cls, _ => False
  | .ret, _ => False
  | .sys _, _ => False
  | .jp _, _ => False
  | .call _, _ => False
  | .seImm _ _, _ => False
  | .sneImm _ _, _ => False
  | .seReg _ _, _ => False
  | .ldImm x _, r => r = x
  | .addImm x _, r => r = x
  | .ldReg x _, r => r = x
  | .orReg x _, r => r = x
  | .andReg x _, r => r = x
  | .xorReg x _, r => r = x
  | .addReg x _, r => r = x ∨ r = 15#4
  | .subReg x _, r => r = x ∨ r = 15#4
  | .shr x _, r => r = x ∨ r = 15#4
  | .subnReg x _, r => r = x ∨ r = 15#4
  | .shl x _, r => r = x ∨ r = 15#4
  | .sneReg _ _, _ => False
  | .ldIndex _, _ => False
  | .jpV0 _, _ => False
  | .rnd x _, r => r = x
  | .drw _ _ _, r => r = 15#4
  | .skp _, _ => False
  | .sknp _, _ => False
  | .ldVDt x, r => r = x
  | .ldVKey x, r => r = x
  | .ldDtV _, _ => False
  | .ldStV _, _ => False
  | .addIndex _, _ => False
  | .ldFont _, _ => False
  | .ldBcd _, _ => False
  | .storeRegs _, _ => False
  | .loadRegs x, r => r.toNat ≤ x.toNat
  | .unrecognized _, _ => False

/-- The parts a form may write: pc by every form, and the others as R24, R28..R34, R68, R202 and R206 list them. -/
def writtenParts : Instr → List Part
  | .cls => [.pc, .display, .redraw]
  | .ret => [.pc, .stack, .faultRecord]
  | .sys _ => [.pc]
  | .jp _ => [.pc]
  | .call _ => [.pc, .stack, .faultRecord]
  | .seImm _ _ => [.pc]
  | .sneImm _ _ => [.pc]
  | .seReg _ _ => [.pc]
  | .ldImm _ _ => [.pc]
  | .addImm _ _ => [.pc]
  | .ldReg _ _ => [.pc]
  | .orReg _ _ => [.pc]
  | .andReg _ _ => [.pc]
  | .xorReg _ _ => [.pc]
  | .addReg _ _ => [.pc]
  | .subReg _ _ => [.pc]
  | .shr _ _ => [.pc]
  | .subnReg _ _ => [.pc]
  | .shl _ _ => [.pc]
  | .sneReg _ _ => [.pc]
  | .ldIndex _ => [.pc, .index]
  | .jpV0 _ => [.pc]
  | .rnd _ _ => [.pc, .draws]
  | .drw _ _ _ => [.pc, .display, .redraw, .faultRecord]
  | .skp _ => [.pc, .faultRecord]
  | .sknp _ => [.pc, .faultRecord]
  | .ldVDt _ => [.pc]
  | .ldVKey _ => [.pc]
  | .ldDtV _ => [.pc, .delay]
  | .ldStV _ => [.pc, .sound]
  | .addIndex _ => [.pc, .index]
  | .ldFont _ => [.pc, .index]
  | .ldBcd _ => [.pc, .memory, .faultRecord]
  | .storeRegs _ => [.pc, .memory, .faultRecord]
  | .loadRegs _ => [.pc, .faultRecord]
  | .unrecognized _ => [.pc, .reports]

/-- How many bytes from I on a form stores: FX33 three, FX55 x + 1, every other form none (R68). -/
def storedCount : Instr → Nat
  | .ldBcd _ => 3
  | .storeRegs x => x.toNat + 1
  | .cls | .ret | .sys _ | .jp _ | .call _ | .seImm _ _ | .sneImm _ _ | .seReg _ _ | .ldImm _ _ | .addImm _ _
  | .ldReg _ _ | .orReg _ _ | .andReg _ _ | .xorReg _ _ | .addReg _ _ | .subReg _ _ | .shr _ _ | .subnReg _ _
  | .shl _ _ | .sneReg _ _ | .ldIndex _ | .jpV0 _ | .rnd _ _ | .drw _ _ _ | .skp _ | .sknp _ | .ldVDt _ | .ldVKey _
  | .ldDtV _ | .ldStV _ | .addIndex _ | .ldFont _ | .loadRegs _ | .unrecognized _ => 0

/-! ## Faults -/

/-- The fault a form raises in a state, with the conditions of R202 and of the forms' rules, on exact naturals (R64). -/
def faultOf : Instr → State → Option FaultCause
  | .ret, s => if s.sp.val = 0 then some .stackUnderflow else none
  | .call _, s => if s.sp.val = 16 then some .stackOverflow else none
  | .drw _ _ n, s => if 0 < n.toNat ∧ 4095 < s.i.toNat + n.toNat - 1 then some .memBounds else none
  | .ldBcd _, s => if 4095 < s.i.toNat + 2 then some .memBounds else none
  | .storeRegs x, s => if 4095 < s.i.toNat + x.toNat then some .memBounds else none
  | .loadRegs x, s => if 4095 < s.i.toNat + x.toNat then some .memBounds else none
  | .skp x, s => if 15 < (s.reg x).toNat then some .keyRange else none
  | .sknp x, s => if 15 < (s.reg x).toNat then some .keyRange else none
  | .cls, _ | .sys _, _ | .jp _, _ | .seImm _ _, _ | .sneImm _ _, _ | .seReg _ _, _ | .ldImm _ _, _ | .addImm _ _, _
  | .ldReg _ _, _ | .orReg _ _, _ | .andReg _ _, _ | .xorReg _ _, _ | .addReg _ _, _ | .subReg _ _, _ | .shr _ _, _
  | .subnReg _ _, _ | .shl _ _, _ | .sneReg _ _, _ | .ldIndex _, _ | .jpV0 _, _ | .rnd _ _, _ | .ldVDt _, _
  | .ldVKey _, _ | .ldDtV _, _ | .ldStV _, _ | .addIndex _, _ | .ldFont _, _ | .unrecognized _, _ => none

/-- A bounds error raised by an instruction (R203, R204): the four writes of the fault record, and nothing else changes, pc
included. -/
def FaultsWith (i : Instr) (s : State) (cause : FaultCause) : Prop :=
  ∃ t, exec i s = .next t ∧ t.halted = true ∧ t.faultCause = cause ∧ t.faultPc = s.pc ∧ t.faultOpcode = encode i ∧
    Frame s t noReg [.faultRecord]

/-! ## Sprites -/

/-- A set bit of the n-row sprite at I, drawn with its corner at (V[x], V[y]), lands on the pixel (r, c) (R171). -/
def spriteHits (s : State) (x y : Reg) (n : Nat) (r : Fin 32) (c : Fin 64) : Prop :=
  ∃ row, row < n ∧ ∃ col, col < 8 ∧ (s.indexByte row).getLsbD (7 - col) = true ∧
    r.val = ((s.reg y).toNat + row) % 32 ∧ c.val = ((s.reg x).toNat + col) % 64

/-- Under PER_PIXEL (R171): the m-th position of the sprite (column m mod 8 of row m / 8) has a set bit and lands on the
pixel (r, c) when VF holds `flag`; a coordinate register other than VF keeps its value while the sprite is drawn. -/
def landsPerPixel (s : State) (x y : Reg) (flag : Byte) (m : Nat) (r : Fin 32) (c : Fin 64) : Prop :=
  (s.indexByte (m / 8)).getLsbD (7 - m % 8) = true ∧
  r.val = ((if y = 15#4 then flag else s.reg y).toNat + m / 8) % 32 ∧
  c.val = ((if x = 15#4 then flag else s.reg x).toNat + m % 8) % 64

/-- Under PER_PIXEL: the m-th position meets a pixel that is on, VF still being 0. -/
def meetsPixelOn (s : State) (x y : Reg) (m : Nat) : Prop :=
  ∃ r c, landsPerPixel s x y 0 m r c ∧ s.pixel r c = true

/-! ## The invariant -/

/-- What holds in every state a run reaches: memory in canonical form; pc at most 4350 (R27, R37); every stack entry the
pc of a fetched CALL, at most 4094 (R106); and the status record clear while running (R41), and while halted naming
pc and the fault that the state shows (R203, R204). -/
structure Invariant (s : State) : Prop where
  memory : Memory.wf s.mem
  pc : s.pc.toNat ≤ 4350
  stack : ∀ j : Fin 16, s.stack[j].toNat ≤ 4094
  running : s.halted = false → s.faultCause = .none ∧ s.faultPc = 0 ∧ s.faultOpcode = 0
  stopped : s.halted = true → s.faultPc = s.pc ∧
    ((s.faultCause = .fetchBounds ∧ 4094 < s.pc.toNat ∧ s.faultOpcode = 0) ∨
      (s.pc.toNat ≤ 4094 ∧ faultOf (decode s.faultOpcode) s = some s.faultCause))

/-! ## The ends of a run (R226) -/

/-- An idle loop: pc holds a word 1NNN with nnn = pc. -/
def State.idleLoop (s : State) : Prop := s.pc.toNat ≤ 4094 ∧ s.fetchWord = 0x1000#16 + s.pc

/-- The two observable end conditions of a run. -/
def State.endOfRun (s : State) : Prop := s.halted = true ∨ s.idleLoop

/-! ## The next transaction -/

/-- The instruction step is the next transaction, and `rest` is requested after it (log entry 2). -/
def State.stepsNext (s : State) (rest : List Transaction) : Prop :=
  s.halted = false ∧ (s.schedule = .step :: rest ∨ (s.schedule = [] ∧ rest = []))

end Sys2Proof.Machine
end

