-- ==== Sys2Proof/Certificates/Slice0/Obligations.lean ====
section
/-! DEFINITION. The statements about the machine that are to be proved, each with the rules of spec/ it is read from. -/

open Sys2Proof Sys2Proof.Machine

/-! ## Encoding -/

/-- 30_encoding.md R85..R92: words written out from the patterns decode to the forms they stand for. Rests on the spec's
own decisions D4 and D5 (log entry 18). -/
def Obligations.KnownWordsDecode : Prop :=
  decode 0x00E0#16 = .cls ∧ decode 0x00EE#16 = .ret ∧ decode 0x0000#16 = .sys 0x000#12 ∧
  decode 0x0EE0#16 = .sys 0xEE0#12 ∧ decode 0xB3A7#16 = .jpV0 0x3A7#12 ∧ decode 0x3F01#16 = .seImm 0xF#4 0x01#8 ∧
  decode 0x8AB7#16 = .subnReg 0xA#4 0xB#4 ∧ decode 0xF265#16 = .loadRegs 0x2#4 ∧ decode 0xD0F5#16 = .drw 0x0#4 0xF#4 0x5#4 ∧
  decode 0xE1A1#16 = .sknp 0x1#4 ∧ decode 0xFFFF#16 = .unrecognized 0xFFFF#16 ∧ decode 0x5121#16 = .unrecognized 0x5121#16

/-- 30_encoding.md R85..R93, R95: decoding the encoding of a well-formed instruction gives it back, with every operand
at every value. -/
def Obligations.DecodeUndoesEncode : Prop :=
  ∀ i : Instr, i.wellFormed = true → decode (encode i) = i

/-- 30_encoding.md R84, R85, R93: every word has one form, which is well formed and encodes back to the word. -/
def Obligations.EncodeUndoesDecode : Prop :=
  ∀ op : Word, (decode op).wellFormed = true ∧ encode (decode op) = op

/-- 30_encoding.md R92: the words that decode to UNRECOGNIZED are exactly those of its table. Rests on the spec's own
decision D5 (log entry 18). -/
def Obligations.UnrecognizedWordsAreTheTable : Prop :=
  ∀ op op' : Word, decode op = .unrecognized op' ↔
    op' = op ∧
      ((opClass op = 0x5#4 ∧ fieldN op ≠ 0x0#4) ∨
       (opClass op = 0x8#4 ∧ 8 ≤ (fieldN op).toNat ∧ fieldN op ≠ 0xE#4) ∨
       (opClass op = 0x9#4 ∧ fieldN op ≠ 0x0#4) ∨
       (opClass op = 0xE#4 ∧ fieldKK op ≠ 0x9E#8 ∧ fieldKK op ≠ 0xA1#8) ∨
       (opClass op = 0xF#4 ∧ fieldKK op ∉ [0x07#8, 0x0A#8, 0x15#8, 0x18#8, 0x1E#8, 0x29#8, 0x33#8, 0x55#8, 0x65#8]))

/-- 30_encoding.md R80, 20_memory.md R65: an instruction is always two bytes, the first the more significant; fewer
bytes are rejected by name. -/
def Obligations.InstructionsAreTwoBytes : Prop :=
  (∀ hi lo rest, ∃ op : Word, op.toNat = hi.toNat * 256 + lo.toNat ∧
    decodeBytes (hi :: lo :: rest) = .ok (decode op, rest)) ∧
  ∀ bs : List Byte, bs.length < 2 → decodeBytes bs = .error .truncated

/-! ## The step cycle -/

/-- 40_sequencer.md R100, R102, R103: when the two bytes at pc decode to a well-formed instruction, the step is exec of
it; the request that the step serves leaves the schedule, and the step adds nothing else. -/
def Obligations.StepRunsDecodedInstruction : Prop :=
  ∀ (i : Instr) (s : State) (rest : List Transaction), s.stepsNext rest → s.pc.toNat ≤ 4094 → i.wellFormed = true →
    decodeBytes [s.readByte s.pc.toNat, s.readByte (s.pc.toNat + 1)] = .ok (i, []) →
    step s = exec i (s.setSchedule rest)

/-- 40_sequencer.md R102, 60_exceptions.md R203: with pc > 4094 the step raises FETCH_BOUNDS with fault_opcode 0, and
changes nothing but the fault record. The record is the spec's own decision D9 (log entry 18). -/
def Obligations.FetchBeyondMemoryFaults : Prop :=
  ∀ (s : State) (rest : List Transaction), s.stepsNext rest → 4094 < s.pc.toNat →
    ∃ t, step s = .next t ∧ t.halted = true ∧ t.faultCause = .fetchBounds ∧ t.faultPc = s.pc ∧ t.faultOpcode = 0 ∧
      t.schedule = rest ∧ Frame s t noReg [.faultRecord, .schedule]

/-- The model's own (log entry 15): an instruction word placed for the next step is the instruction that step runs, in
every state. -/
def Obligations.PlacedWordIsRun : Prop :=
  ∀ (s : State) (w : Nat), w < 65536 →
    decodeTableWord 16 w = some (decode (BitVec.ofNat 16 w)) ∧
    step (s.withFetchWord 16 w) = exec (decode (BitVec.ofNat 16 w)) (s.withFetchWord 16 w)

/-- 60_exceptions.md R202..R204, 40_sequencer.md R104: an instruction raises exactly the fault that the table of R202
gives for it, with the four writes of R203 and no other change; where the table gives none it completes, and the fault
record stays as it is. Rests on the spec's own decisions D9, D10 and D13 (log entry 18) and on log entry 12. -/
def Obligations.FaultsAreTheTable : Prop :=
  ∀ (i : Instr) (s : State),
    (∀ c, faultOf i s = some c → FaultsWith i s c) ∧
    (faultOf i s = none → ∃ t, exec i s = .next t ∧ Part.faultRecord.same s t)

/-- 60_exceptions.md R203, R207: a step that halts the machine records its pc, and the word it fetched, or 0 where the
fetch itself faulted; nothing but the fault record and the served request changes. Rests on the spec's own decision D9
(log entry 18). -/
def Obligations.FaultRecordNamesFetchedWord : Prop :=
  ∀ (s t : State) (rest : List Transaction), s.stepsNext rest → step s = .next t → t.halted = true →
    t.faultPc = s.pc ∧ t.faultCause ≠ .none ∧
    t.faultOpcode = (if s.pc.toNat ≤ 4094 then s.fetchWord else 0) ∧
    (t.faultCause = .fetchBounds ↔ 4094 < s.pc.toNat) ∧ Frame s t noReg [.faultRecord, .schedule]

/-- 40_sequencer.md R101, 60_exceptions.md R205: while halted, neither a step nor a tick has a transition, and the
machine is stuck when nothing else is requested; a key or redraw request of the host behind them is served. Rests on the
spec's own decisions D9 and D26 (log entry 18), and the passing over of requests on log entry 3. -/
def Obligations.HaltedMachineIsStuck : Prop :=
  ∀ (s : State) (waiting : List Transaction), s.halted = true → (∀ r ∈ waiting, r = .step ∨ r = .tick) →
    (s.schedule = waiting → step s = .fault (.halted s.faultCause)) ∧
    (∀ k b rest, s.schedule = waiting ++ .setKey k b :: rest → step s = .next ((s.setSchedule rest).writeKey k b)) ∧
    (∀ rest, s.schedule = waiting ++ .clearRedraw :: rest → step s = .next ((s.setSchedule rest).setRedraw false))

/-- 60_exceptions.md R205: a halted machine becomes running again only by a reset; until then only the keys, the redraw
flag and the requests change. Rests on the spec's own decisions D9 and D26 (log entry 18). -/
def Obligations.OnlyResetClearsHalted : Prop :=
  ∀ s t : State, s.halted = true → step s = .next t →
    (∃ b rest, nextTransaction true s.schedule = some (.reset b, rest) ∧ t.halted = false) ∨
    (t.halted = true ∧ Frame s t noReg [.keys, .redraw, .schedule])

/-! ## The other agents -/

/-- 60_exceptions.md R214: tick() takes one from each non-zero timer, leaves a zero one, and touches nothing else. -/
def Obligations.TickCountsDown : Prop :=
  ∀ (s : State) (rest : List Transaction), s.halted = false → s.schedule = .tick :: rest → ∃ t, step s = .next t ∧
    (s.dt.toNat = 0 → t.dt.toNat = 0) ∧ (0 < s.dt.toNat → t.dt.toNat = s.dt.toNat - 1) ∧
    (s.st.toNat = 0 → t.st.toNat = 0) ∧ (0 < s.st.toNat → t.st.toNat = s.st.toNat - 1) ∧
    t.schedule = rest ∧ Frame s t noReg [.delay, .sound, .schedule]

/-- 10_state.md R33, R34, 60_exceptions.md R221, R222: the host's key write sets that key alone, and its clear of redraw
that flag alone, running or halted. Rests on the spec's own decision D21 (log entry 18). -/
def Obligations.HostActionsTouchKeysAndRedrawAlone : Prop :=
  ∀ (s : State) (rest : List Transaction),
    (∀ k b, s.schedule = .setKey k b :: rest → ∃ t, step s = .next t ∧
      (∀ j, t.key j = if j = k then b else s.key j) ∧ t.schedule = rest ∧ Frame s t noReg [.keys, .schedule]) ∧
    (s.schedule = .clearRedraw :: rest → ∃ t, step s = .next t ∧ t.redraw = false ∧ t.schedule = rest ∧
      Frame s t noReg [.redraw, .schedule])

/-- 70_reset_and_hazards.md R240..R244, 10_state.md R41: reset gives every state element its reset value, FONT at 0..79,
the image from 512, and MEM_INIT elsewhere, the host's bytes where it gives them once and the free byte where it gives
none; the keys stay as the host drives them. The zeros are the spec's decision D6 (log entry 9). -/
def Obligations.ResetBootsTheMachine : Prop :=
  ∀ (s : State) (b : BootImage) (rest : List Transaction), s.schedule = .reset b :: rest → b.image.length ≤ 3584 →
    ∃ t, step s = .next t ∧
      t.pc.toNat = 512 ∧ (∀ r, t.reg r = 0) ∧ t.i = 0 ∧ t.sp = 0 ∧ (∀ j : Fin 16, t.stack[j] = 0) ∧ t.dt = 0 ∧ t.st = 0 ∧
      (∀ r c, t.pixel r c = false) ∧ t.redraw = false ∧
      t.halted = false ∧ t.faultCause = .none ∧ t.faultPc = 0 ∧ t.faultOpcode = 0 ∧
      (∀ j : Fin 80, t.readByte j.val = b.font[j]) ∧
      (∀ j (h : j < b.image.length), t.readByte (512 + j) = b.image[j]) ∧
      (∀ a w, 80 ≤ a → a < 4096 → ¬ (512 ≤ a ∧ a < 512 + b.image.length) → (a, w) ∈ b.memInit →
        (∀ u, (a, u) ∈ b.memInit → u = w) → t.readByte a = w) ∧
      (∀ a, 80 ≤ a → ¬ (512 ≤ a ∧ a < 512 + b.image.length) → (∀ u, (a, u) ∉ b.memInit) → t.readByte a = Config.memInit a) ∧
      Memory.wf t.mem ∧ (∀ k, t.key k = s.key k) ∧ t.schedule = rest

/-- 70_reset_and_hazards.md R243: an image over 3584 bytes starts no session. Rests on the spec's own decision D29 (log
entry 18). -/
def Obligations.OverlongImageStartsNoSession : Prop :=
  ∀ (s : State) (b : BootImage) (rest : List Transaction), s.schedule = .reset b :: rest → 3584 < b.image.length →
    step s = .refused .imageTooLong

/-- 10_state.md R41, 70_reset_and_hazards.md R244: the state after reset with no image: pc is 512 (the source), the rest
is the spec's decision D6 and the model's choices (log entries 4, 5, 9, 10). -/
def Obligations.ResetStateValues : Prop :=
  State.reset.pc.toNat = 512 ∧ State.reset.halted = false ∧ State.reset.faultCause = .none ∧
  (∀ r, State.reset.reg r = 0) ∧ State.reset.i = 0 ∧ State.reset.sp = 0 ∧ State.reset.dt = 0 ∧ State.reset.st = 0 ∧
  (∀ r c, State.reset.pixel r c = false) ∧ State.reset.redraw = false ∧ (∀ k, State.reset.key k = false) ∧
  (∀ a, 80 ≤ a → State.reset.readByte a = Config.memInit a) ∧
  (List.range 5).map (fun j => State.reset.readByte (5 * 10 + j)) = [0xF0#8, 0x90#8, 0xF0#8, 0x90#8, 0x90#8]

/-! ## The invariant -/

/-- The machine's invariant is kept by every transaction of every agent, from every state that meets it: memory in
canonical form, pc at most 4350, every stack entry at most 4094, and the status record clear while running and naming pc
and the fault while halted (Invariant in Safety.lean). -/
def Obligations.StepKeepsInvariant : Prop :=
  ∀ s t : State, Invariant s → step s = .next t → Invariant t

/-- The state after reset meets the invariant. -/
def Obligations.ResetMeetsInvariant : Prop := Invariant State.reset

/-! ## What instructions may write -/

/-- 10_state.md R23, R24, R28..R34, 20_memory.md R68, 40_sequencer.md R109, 45_display.md R172: an instruction changes
no register and no part of the state but those the spec's lists give it; in particular a step never counts a timer down
(R109). The fault record is the spec's own decision D9 (log entry 18); the count of draws and the list of decode-error
events are the model's own fields (log entries 6 and 13). -/
def Obligations.InstructionsWriteOnlyTheirOwn : Prop :=
  ∀ (i : Instr) (s t : State), exec i s = .next t → Frame s t (writtenReg i) (writtenParts i)

/-- 20_memory.md R63, R68: the only stores are those of FX33 and FX55, to the bytes from I on; every other byte of
memory is unchanged. -/
def Obligations.StoresStayInTheirRange : Prop :=
  ∀ (i : Instr) (s t : State) (a : Nat), exec i s = .next t →
    ¬ (s.i.toNat ≤ a ∧ a < s.i.toNat + storedCount i) → t.readByte a = s.readByte a

/-- 40_sequencer.md R105, R106: the next pc is one of the six selections, exact and never wrapped. The bounds on pc and
on the stack entries are parts of Invariant, which every step keeps. -/
def Obligations.NextPcIsExact : Prop :=
  ∀ (i : Instr) (s t : State), s.pc.toNat ≤ 4094 → (∀ j : Fin 16, s.stack[j].toNat ≤ 4094) → exec i s = .next t →
    t.pc.toNat = s.pc.toNat ∨ t.pc.toNat = s.pc.toNat + 2 ∨ t.pc.toNat = s.pc.toNat + 4 ∨
    (∃ nnn, (i = .jp nnn ∨ i = .call nnn) ∧ t.pc.toNat = nnn.toNat) ∨
    (∃ nnn, i = .jpV0 nnn ∧ t.pc.toNat = (s.reg 0#4).toNat + nnn.toNat) ∨
    (i = .ret ∧ ∃ j : Fin 16, s.sp.val = j.val + 1 ∧ t.pc.toNat = s.stack[j].toNat + 2)

/-! ## SYS, UNRECOGNIZED and control transfer -/

/-- 40_sequencer.md R107, R108: SYS only advances pc; an unrecognized word is reported once and only advances pc. Rests
on the spec's own decisions D4 and D19 (log entry 18). -/
def Obligations.SysAndUnrecognizedOnlyAdvance : Prop :=
  ∀ s : State,
    (∀ nnn : Addr12, nnn ≠ 0x0E0#12 → nnn ≠ 0x0EE#12 → decode (wordNNN 0x0#4 nnn) = .sys nnn ∧
      ∃ t, exec (.sys nnn) s = .next t ∧ t.pc = s.pc + 2 ∧ Frame s t noReg [.pc]) ∧
    (∀ op : Word, unrecognizedWord op = true → decode op = .unrecognized op ∧
      ∃ t, exec (.unrecognized op) s = .next t ∧ t.pc = s.pc + 2 ∧
        t.reports = s.reports ++ [{ pc := s.pc, opcode := op }] ∧ Frame s t noReg [.pc, .reports])

/-- 41_flow.md R121, R123: JP and JP V0 write the exact target and nothing else. -/
def Obligations.JumpsWriteTheirTarget : Prop :=
  ∀ (nnn : Addr12) (s : State),
    (decode (wordNNN 0x1#4 nnn) = .jp nnn ∧
      ∃ t, exec (.jp nnn) s = .next t ∧ t.pc.toNat = nnn.toNat ∧ Frame s t noReg [.pc]) ∧
    (decode (wordNNN 0xB#4 nnn) = .jpV0 nnn ∧
      ∃ t, exec (.jpV0 nnn) s = .next t ∧ t.pc.toNat = (s.reg 0#4).toNat + nnn.toNat ∧ Frame s t noReg [.pc])

/-- 41_flow.md R122: CALL pushes its own address; with SP = 16 it raises STACK_OVERFLOW. The fault record is the spec's
own decision D9 (log entry 18). -/
def Obligations.CallPushesItsAddress : Prop :=
  ∀ (nnn : Addr12) (s : State), decode (wordNNN 0x2#4 nnn) = .call nnn ∧
    (s.sp.val ≠ 16 → ∃ t, exec (.call nnn) s = .next t ∧
      (∀ j : Fin 16, t.stack[j] = if j.val = s.sp.val then s.pc else s.stack[j]) ∧
      t.sp.val = s.sp.val + 1 ∧ t.pc.toNat = nnn.toNat ∧ Frame s t noReg [.pc, .stack]) ∧
    (s.sp.val = 16 → FaultsWith (.call nnn) s .stackOverflow)

/-- 41_flow.md R120: RET resumes behind the CALL whose address it pops, and leaves the entry; with SP = 0 it raises
STACK_UNDERFLOW. The fault record is the spec's own decision D9 (log entry 18). -/
def Obligations.ReturnResumesBehindTheCall : Prop :=
  ∀ s : State, decode 0x00EE#16 = .ret ∧
    (∀ j : Fin 16, s.sp.val = j.val + 1 → ∃ t, exec .ret s = .next t ∧
      t.sp.val = j.val ∧ t.stack = s.stack ∧ t.pc = s.stack[j] + 2 ∧ Frame s t noReg [.pc, .stack]) ∧
    (s.sp.val = 0 → FaultsWith .ret s .stackUnderflow)

/-- 95_test_vectors.md E7, 41_flow.md R120, R122: a CALL and then a RET come back behind the CALL, with the live stack
entries as they were. -/
def Obligations.CallThenReturnComesBack : Prop :=
  ∀ (nnn : Addr12) (s : State), s.sp.val ≠ 16 →
    ∃ t u, exec (.call nnn) s = .next t ∧ exec .ret t = .next u ∧ u.pc = s.pc + 2 ∧ u.sp = s.sp ∧
      (∀ j : Fin 16, j.val < s.sp.val → u.stack[j] = s.stack[j]) ∧ Frame s u noReg [.pc, .stack]

/-- 42_skip.md R130..R133: the four register skips take pc + 4 on their condition and pc + 2 otherwise, and change
nothing else; 5XYn and 9XYn with another low nibble are unrecognized, by R88, which is the spec's own decision D5 (log
entry 18). -/
def Obligations.RegisterSkipsTakeTheirCondition : Prop :=
  ∀ (x y : Reg) (kk : Byte) (s : State),
    (decode (wordXKK 0x3#4 x kk) = .seImm x kk ∧ ∃ t, exec (.seImm x kk) s = .next t ∧
      t.pc = (if s.reg x = kk then s.pc + 4 else s.pc + 2) ∧ Frame s t noReg [.pc]) ∧
    (decode (wordXKK 0x4#4 x kk) = .sneImm x kk ∧ ∃ t, exec (.sneImm x kk) s = .next t ∧
      t.pc = (if s.reg x = kk then s.pc + 2 else s.pc + 4) ∧ Frame s t noReg [.pc]) ∧
    (decode (wordXYN 0x5#4 x y 0x0#4) = .seReg x y ∧ ∃ t, exec (.seReg x y) s = .next t ∧
      t.pc = (if s.reg x = s.reg y then s.pc + 4 else s.pc + 2) ∧ Frame s t noReg [.pc]) ∧
    (decode (wordXYN 0x9#4 x y 0x0#4) = .sneReg x y ∧ ∃ t, exec (.sneReg x y) s = .next t ∧
      t.pc = (if s.reg x = s.reg y then s.pc + 2 else s.pc + 4) ∧ Frame s t noReg [.pc]) ∧
    ∀ n : BitVec 4, n ≠ 0x0#4 →
      decode (wordXYN 0x5#4 x y n) = .unrecognized (wordXYN 0x5#4 x y n) ∧
      decode (wordXYN 0x9#4 x y n) = .unrecognized (wordXYN 0x9#4 x y n)

/-! ## Register arithmetic and logic -/

/-- 43_alu.md R141, R142, R143: LD Vx kk, ADD Vx kk and LD Vx Vy write V[x] alone: kk, the sum modulo 256, V[y]; no
flag. -/
def Obligations.LoadsAndImmediateAddWriteOneRegister : Prop :=
  ∀ (x y : Reg) (kk : Byte) (s : State),
    (decode (wordXKK 0x6#4 x kk) = .ldImm x kk ∧ ∃ t, exec (.ldImm x kk) s = .next t ∧
      t.reg x = kk ∧ t.pc = s.pc + 2 ∧ Frame s t (· = x) [.pc]) ∧
    (decode (wordXKK 0x7#4 x kk) = .addImm x kk ∧ ∃ t, exec (.addImm x kk) s = .next t ∧
      (t.reg x).toNat = ((s.reg x).toNat + kk.toNat) % 256 ∧ t.pc = s.pc + 2 ∧ Frame s t (· = x) [.pc]) ∧
    (decode (wordXYN 0x8#4 x y 0x0#4) = .ldReg x y ∧ ∃ t, exec (.ldReg x y) s = .next t ∧
      t.reg x = s.reg y ∧ t.pc = s.pc + 2 ∧ Frame s t (· = x) [.pc])

/-- 43_alu.md R144, R145, R146: OR, AND and XOR work bit by bit on V[x] and V[y] and write V[x] alone; no flag. -/
def Obligations.LogicWorksBitByBit : Prop :=
  ∀ (x y : Reg) (s : State),
    (decode (wordXYN 0x8#4 x y 0x1#4) = .orReg x y ∧ ∃ t, exec (.orReg x y) s = .next t ∧
      (∀ k, (t.reg x).getLsbD k = ((s.reg x).getLsbD k || (s.reg y).getLsbD k)) ∧
      t.pc = s.pc + 2 ∧ Frame s t (· = x) [.pc]) ∧
    (decode (wordXYN 0x8#4 x y 0x2#4) = .andReg x y ∧ ∃ t, exec (.andReg x y) s = .next t ∧
      (∀ k, (t.reg x).getLsbD k = ((s.reg x).getLsbD k && (s.reg y).getLsbD k)) ∧
      t.pc = s.pc + 2 ∧ Frame s t (· = x) [.pc]) ∧
    (decode (wordXYN 0x8#4 x y 0x3#4) = .xorReg x y ∧ ∃ t, exec (.xorReg x y) s = .next t ∧
      (∀ k, (t.reg x).getLsbD k = ((s.reg x).getLsbD k != (s.reg y).getLsbD k)) ∧
      t.pc = s.pc + 2 ∧ Frame s t (· = x) [.pc])

/-- 43_alu.md R147, 90_conflicts.md C5: ADD Vx Vy writes the carry to VF and then the sum modulo 256 to V[x], so that
with x = 15 the sum stands. The order of the writes is the spec's own decision D11 (log entry 18). -/
def Obligations.AddWritesCarryThenSum : Prop :=
  ∀ (x y : Reg) (s : State), decode (wordXYN 0x8#4 x y 0x4#4) = .addReg x y ∧ ∃ t, exec (.addReg x y) s = .next t ∧
    (t.reg x).toNat = ((s.reg x).toNat + (s.reg y).toNat) % 256 ∧
    (x ≠ 15#4 → t.reg 15#4 = if 256 ≤ (s.reg x).toNat + (s.reg y).toNat then 1 else 0) ∧
    t.pc = s.pc + 2 ∧ Frame s t (fun r => r = x ∨ r = 15#4) [.pc]

/-- 43_alu.md R148, R150: SUB and SUBN write not-borrow to VF and then the difference modulo 256 to V[x]. The order of
the writes is the spec's own decision D11 (log entry 18). -/
def Obligations.SubtractionsWriteNotBorrowThenDifference : Prop :=
  ∀ (x y : Reg) (s : State),
    (decode (wordXYN 0x8#4 x y 0x5#4) = .subReg x y ∧ ∃ t, exec (.subReg x y) s = .next t ∧
      (t.reg x).toNat = ((s.reg x).toNat + 256 - (s.reg y).toNat) % 256 ∧
      (x ≠ 15#4 → t.reg 15#4 = if (s.reg x).toNat < (s.reg y).toNat then 0 else 1) ∧
      t.pc = s.pc + 2 ∧ Frame s t (fun r => r = x ∨ r = 15#4) [.pc]) ∧
    (decode (wordXYN 0x8#4 x y 0x7#4) = .subnReg x y ∧ ∃ t, exec (.subnReg x y) s = .next t ∧
      (t.reg x).toNat = ((s.reg y).toNat + 256 - (s.reg x).toNat) % 256 ∧
      (x ≠ 15#4 → t.reg 15#4 = if (s.reg y).toNat < (s.reg x).toNat then 0 else 1) ∧
      t.pc = s.pc + 2 ∧ Frame s t (fun r => r = x ∨ r = 15#4) [.pc])

/-- 43_alu.md R149, R151: the shifts write the bit shifted out to VF and then shift V[x], read again, by one, whatever y
is; with x = 15 they shift the flag just written. The order of the statements is the spec's own decision D11 (log entry
18). -/
def Obligations.ShiftsWriteBitOutThenShift : Prop :=
  ∀ (x y : Reg) (s : State),
    (decode (wordXYN 0x8#4 x y 0x6#4) = .shr x y ∧ ∃ t, exec (.shr x y) s = .next t ∧
      (x ≠ 15#4 → (t.reg x).toNat = (s.reg x).toNat / 2 ∧ (t.reg 15#4).toNat = (s.reg x).toNat % 2) ∧
      (x = 15#4 → t.reg 15#4 = 0) ∧
      t.pc = s.pc + 2 ∧ Frame s t (fun r => r = x ∨ r = 15#4) [.pc]) ∧
    (decode (wordXYN 0x8#4 x y 0xE#4) = .shl x y ∧ ∃ t, exec (.shl x y) s = .next t ∧
      (x ≠ 15#4 → (t.reg x).toNat = 2 * (s.reg x).toNat % 256 ∧ (t.reg 15#4).toNat = (s.reg x).toNat / 128) ∧
      (x = 15#4 → (t.reg 15#4).toNat = 2 * ((s.reg x).toNat / 128)) ∧
      t.pc = s.pc + 2 ∧ Frame s t (fun r => r = x ∨ r = 15#4) [.pc])

/-- 43_alu.md R152: RND consumes one RNG byte and writes its bitwise AND with kk to V[x]; it holds for every value of
the byte, which is free (log entry 6). -/
def Obligations.RandomByteIsMasked : Prop :=
  ∀ (x : Reg) (kk : Byte) (s : State), decode (wordXKK 0xC#4 x kk) = .rnd x kk ∧ ∃ t, exec (.rnd x kk) s = .next t ∧
    (∀ k, (t.reg x).getLsbD k = ((Config.rnd s.draws).getLsbD k && kk.getLsbD k)) ∧
    t.draws = s.draws + 1 ∧ t.pc = s.pc + 2 ∧ Frame s t (· = x) [.pc, .draws]

/-! ## Index register and memory transfers -/

/-- 44_index_memory.md R160, R162: LD I and LD F write I alone: nnn, and five times V[x], without a mask. -/
def Obligations.IndexLoadsWriteIndexAlone : Prop :=
  ∀ (x : Reg) (nnn : Addr12) (s : State),
    (decode (wordNNN 0xA#4 nnn) = .ldIndex nnn ∧ ∃ t, exec (.ldIndex nnn) s = .next t ∧
      t.i.toNat = nnn.toNat ∧ t.pc = s.pc + 2 ∧ Frame s t noReg [.pc, .index]) ∧
    (decode (wordXKK 0xF#4 x 0x29#8) = .ldFont x ∧ ∃ t, exec (.ldFont x) s = .next t ∧
      t.i.toNat = (s.reg x).toNat * 5 ∧ t.pc = s.pc + 2 ∧ Frame s t noReg [.pc, .index])

/-- 44_index_memory.md R161: ADD I writes I alone, and no flag; that the sum wraps at 65536 is the spec's own decision
D25 (log entry 18). -/
def Obligations.IndexAddWrapsAtSixteenBits : Prop :=
  ∀ (x : Reg) (s : State), decode (wordXKK 0xF#4 x 0x1E#8) = .addIndex x ∧ ∃ t, exec (.addIndex x) s = .next t ∧
    t.i.toNat = (s.i.toNat + (s.reg x).toNat) % 65536 ∧ t.pc = s.pc + 2 ∧ Frame s t noReg [.pc, .index]

/-- 44_index_memory.md R163: LD B stores the three decimal digits of V[x] at I, I+1, I+2, most significant first; with I
+ 2 > 4095 it raises MEM_BOUNDS and stores nothing. The fault record is the spec's own decision D9 (log entry 18). -/
def Obligations.BcdStoresThreeDigits : Prop :=
  ∀ (x : Reg) (s : State), decode (wordXKK 0xF#4 x 0x33#8) = .ldBcd x ∧
    (s.i.toNat + 2 ≤ 4095 → ∃ t, exec (.ldBcd x) s = .next t ∧
      (t.readByte s.i.toNat).toNat = (s.reg x).toNat / 100 ∧
      (t.readByte (s.i.toNat + 1)).toNat = (s.reg x).toNat / 10 % 10 ∧
      (t.readByte (s.i.toNat + 2)).toNat = (s.reg x).toNat % 10 ∧
      (∀ a, ¬ (s.i.toNat ≤ a ∧ a < s.i.toNat + 3) → t.readByte a = s.readByte a) ∧
      t.pc = s.pc + 2 ∧ Frame s t noReg [.pc, .memory]) ∧
    (4095 < s.i.toNat + 2 → FaultsWith (.ldBcd x) s .memBounds)

/-- 44_index_memory.md R164: LD [I], Vx stores V[0..x] from I on and leaves I; with I + x > 4095 it raises MEM_BOUNDS
and stores nothing. The fault record is the spec's own decision D9 (log entry 18). -/
def Obligations.StoreRegistersToIndex : Prop :=
  ∀ (x : Reg) (s : State), decode (wordXKK 0xF#4 x 0x55#8) = .storeRegs x ∧
    (s.i.toNat + x.toNat ≤ 4095 → ∃ t, exec (.storeRegs x) s = .next t ∧
      (∀ r : Reg, r.toNat ≤ x.toNat → t.readByte (s.i.toNat + r.toNat) = s.reg r) ∧
      (∀ a, ¬ (s.i.toNat ≤ a ∧ a ≤ s.i.toNat + x.toNat) → t.readByte a = s.readByte a) ∧
      t.pc = s.pc + 2 ∧ Frame s t noReg [.pc, .memory]) ∧
    (4095 < s.i.toNat + x.toNat → FaultsWith (.storeRegs x) s .memBounds)

/-- 44_index_memory.md R165: LD Vx, [I] loads V[0..x] from I on, and leaves I and the registers above x; with I + x >
4095 it raises MEM_BOUNDS and loads nothing. The fault record is the spec's own decision D9 (log entry 18). -/
def Obligations.LoadRegistersFromIndex : Prop :=
  ∀ (x : Reg) (s : State), decode (wordXKK 0xF#4 x 0x65#8) = .loadRegs x ∧
    (s.i.toNat + x.toNat ≤ 4095 → ∃ t, exec (.loadRegs x) s = .next t ∧
      (∀ r : Reg, r.toNat ≤ x.toNat → t.reg r = s.readByte (s.i.toNat + r.toNat)) ∧
      t.pc = s.pc + 2 ∧ Frame s t (fun r => r.toNat ≤ x.toNat) [.pc]) ∧
    (4095 < s.i.toNat + x.toNat → FaultsWith (.loadRegs x) s .memBounds)

/-- 95_test_vectors.md E9, 44_index_memory.md R164, R165: storing V[0..x] and loading them back from the same I restores
them, whatever the registers held in between. -/
def Obligations.StoreThenLoadRestoresRegisters : Prop :=
  ∀ (x : Reg) (s : State), s.i.toNat + x.toNat ≤ 4095 → ∃ t, exec (.storeRegs x) s = .next t ∧
    ∀ w : Vector Byte 16, ∃ u, exec (.loadRegs x) { t with v := w } = .next u ∧
      ∀ r : Reg, r.toNat ≤ x.toNat → u.reg r = s.reg r

/-- 20_memory.md R73, 70_reset_and_hazards.md R248: after an FX55 that overwrites the next word, the next step executes
the word stored. Rests on the spec's own decision D17 (log entry 18). -/
def Obligations.StoredWordIsTheNextInstruction : Prop :=
  ∀ (x : Reg) (s : State), s.halted = false → s.schedule = [] → 1 ≤ x.toNat → s.i = s.pc + 2 → s.pc.toNat ≤ 4092 →
    s.i.toNat + x.toNat ≤ 4095 →
    ∃ t, exec (.storeRegs x) s = .next t ∧ step t = exec (decode (wordOfBytes (s.reg 0#4) (s.reg 1#4))) t

/-! ## Display -/

/-- 45_display.md R170, R172: CLS turns every pixel off and sets redraw, whatever was on; VF is not written. -/
def Obligations.ClearTurnsEveryPixelOff : Prop :=
  decode 0x00E0#16 = .cls ∧ ∀ s : State, ∃ t, exec .cls s = .next t ∧
    (∀ r c, t.pixel r c = false) ∧ t.redraw = true ∧ t.pc = s.pc + 2 ∧ Frame s t noReg [.pc, .display, .redraw]

/-- 45_display.md R171: with coordinates latched, or taken from registers other than VF, DRW flips exactly the pixels
that a set sprite bit lands on, wrapping on both axes; VF is 1 when one of them was on and 0 otherwise; redraw is set.
The setting of DRW_COORD_READ is open (decision D12, log entry 7). -/
def Obligations.DrawFlipsTheSpritePixels : Prop :=
  ∀ (x y : Reg) (n : BitVec 4) (s : State),
    (s.params.drwCoordRead = .latched ∨ (x ≠ 15#4 ∧ y ≠ 15#4)) → s.i.toNat + n.toNat ≤ 4096 →
    ∃ t, exec (.drw x y n) s = .next t ∧
      (∀ r c, spriteHits s x y n.toNat r c → t.pixel r c = !s.pixel r c) ∧
      (∀ r c, ¬ spriteHits s x y n.toNat r c → t.pixel r c = s.pixel r c) ∧
      ((∃ r c, spriteHits s x y n.toNat r c ∧ s.pixel r c = true) → t.reg 15#4 = 1) ∧
      (¬ (∃ r c, spriteHits s x y n.toNat r c ∧ s.pixel r c = true) → t.reg 15#4 = 0) ∧
      t.redraw = true ∧ t.pc = s.pc + 2 ∧ Frame s t (· = 15#4) [.pc, .display, .redraw]

/-- 45_display.md R171: under both settings of DRW_COORD_READ, and for x or y = 15 too, a DRW in range completes with VF
0 or 1, and VF is 1 exactly when some pixel that was on is off after it. With n = 0 no address is checked, no pixel
changes and VF is 0. The setting of DRW_COORD_READ is open (decision D12, log entry 7). -/
def Obligations.DrawFlagTellsPixelsTurnedOff : Prop :=
  ∀ (x y : Reg) (n : BitVec 4) (s : State), n = 0#4 ∨ s.i.toNat + n.toNat ≤ 4096 →
    ∃ t, exec (.drw x y n) s = .next t ∧
      (t.reg 15#4 = 0 ∨ t.reg 15#4 = 1) ∧
      (t.reg 15#4 = 1 ↔ ∃ r c, s.pixel r c = true ∧ t.pixel r c = false) ∧
      (n = 0#4 → t.reg 15#4 = 0 ∧ ∀ r c, t.pixel r c = s.pixel r c) ∧
      t.redraw = true ∧ t.pc = s.pc + 2 ∧ Frame s t (· = 15#4) [.pc, .display, .redraw]

/-- 45_display.md R171: under PER_PIXEL, for every x and y, VF among them, a DRW in range flips exactly the pixels that
the set sprite bits land on: with VF = 0 up to the first bit that meets a pixel that is on, and with VF = 1 behind it.
VF ends as 1 when there is such a bit and as 0 otherwise. The setting of DRW_COORD_READ is open (decision D12, log entry
7). -/
def Obligations.PerPixelDrawMovesBehindTheFirstCollision : Prop :=
  ∀ (x y : Reg) (n : BitVec 4) (s : State), s.params.drwCoordRead = .perPixel → n = 0#4 ∨ s.i.toNat + n.toNat ≤ 4096 →
    ∃ t, exec (.drw x y n) s = .next t ∧
      ((∀ m, m < 8 * n.toNat → ¬ meetsPixelOn s x y m) → t.reg 15#4 = 0 ∧
        ∀ r c, t.pixel r c ≠ s.pixel r c ↔ ∃ m, m < 8 * n.toNat ∧ landsPerPixel s x y 0 m r c) ∧
      (∀ k, k < 8 * n.toNat → meetsPixelOn s x y k → (∀ m, m < k → ¬ meetsPixelOn s x y m) → t.reg 15#4 = 1 ∧
        ∀ r c, t.pixel r c ≠ s.pixel r c ↔
          ∃ m, m < 8 * n.toNat ∧ landsPerPixel s x y (if m ≤ k then 0 else 1) m r c) ∧
      t.redraw = true ∧ t.pc = s.pc + 2 ∧ Frame s t (· = 15#4) [.pc, .display, .redraw]

/-- 45_display.md R171, 20_memory.md R63: DXYN decodes for every n, and a DRW whose rows run past 4095 raises MEM_BOUNDS
before VF, Disp or redraw change. The fault record is the spec's own decision D9 (log entry 18). -/
def Obligations.DrawBeyondMemoryFaults : Prop :=
  ∀ (x y : Reg) (n : BitVec 4) (s : State), decode (wordXYN 0xD#4 x y n) = .drw x y n ∧
    (0 < n.toNat → 4095 < s.i.toNat + n.toNat - 1 → FaultsWith (.drw x y n) s .memBounds)

/-- 95_test_vectors.md E6, 90_conflicts.md C8: with x and y other than 15, drawing the same sprite twice restores every
pixel, and the second draw sets VF exactly when the first turned a pixel on. -/
def Obligations.DrawTwiceRestoresDisplay : Prop :=
  ∀ (x y : Reg) (n : BitVec 4) (s : State), x ≠ 15#4 → y ≠ 15#4 → s.i.toNat + n.toNat ≤ 4096 →
    ∃ t u, exec (.drw x y n) s = .next t ∧ exec (.drw x y n) t = .next u ∧
      (∀ r c, u.pixel r c = s.pixel r c) ∧
      (u.reg 15#4 = 1 ↔ ∃ r c, s.pixel r c = false ∧ t.pixel r c = true)

/-! ## Keys and timers -/

/-- 46_keys_timers.md R180, R181: the key skips test the key that V[x] names, and raise KEY_RANGE when V[x] > 15. The
fault is the spec's own decision D13 (log entry 18). -/
def Obligations.KeySkipsTestTheNamedKey : Prop :=
  ∀ (x : Reg) (s : State),
    decode (wordXKK 0xE#4 x 0x9E#8) = .skp x ∧ decode (wordXKK 0xE#4 x 0xA1#8) = .sknp x ∧
    (∀ k : Key, (s.reg x).toNat = k.val →
      (∃ t, exec (.skp x) s = .next t ∧ t.pc = (if s.key k = true then s.pc + 4 else s.pc + 2) ∧ Frame s t noReg [.pc]) ∧
      (∃ t, exec (.sknp x) s = .next t ∧ t.pc = (if s.key k = true then s.pc + 2 else s.pc + 4) ∧ Frame s t noReg [.pc])) ∧
    (15 < (s.reg x).toNat → FaultsWith (.skp x) s .keyRange ∧ FaultsWith (.sknp x) s .keyRange)

/-- 46_keys_timers.md R182, 00_scope.md R8: with no key held LD Vx, K changes nothing at all; otherwise it writes a held
key to V[x], the lowest one where FX0A_SELECT is the default, and the table's where it lists the held keys (decision
D14, log entry 8). -/
def Obligations.KeyWaitHoldsOrTakesAHeldKey : Prop :=
  ∀ (x : Reg) (s : State), decode (wordXKK 0xF#4 x 0x0A#8) = .ldVKey x ∧
    ((∀ k, s.key k = false) → exec (.ldVKey x) s = .next s) ∧
    ((∃ k, s.key k = true) → ∃ t k, exec (.ldVKey x) s = .next t ∧ s.key k = true ∧ (t.reg x).toNat = k.val ∧
      (s.params.keyChoice = [] → ∀ j, s.key j = true → k ≤ j) ∧
      (∀ j, s.params.keyChoice.lookup s.heldKeys = some j → s.key j = true → k = j) ∧
      t.pc = s.pc + 2 ∧ Frame s t (· = x) [.pc])

/-- 46_keys_timers.md R183, R184 (and R185): FX07 moves DT to V[x], FX15 moves V[x] to DT, FX18 moves V[x] to ST, and
nothing else changes but pc. -/
def Obligations.TimerTransfersMoveOneByte : Prop :=
  ∀ (x : Reg) (s : State),
    (decode (wordXKK 0xF#4 x 0x07#8) = .ldVDt x ∧ ∃ t, exec (.ldVDt x) s = .next t ∧
      t.reg x = s.dt ∧ t.pc = s.pc + 2 ∧ Frame s t (· = x) [.pc]) ∧
    (decode (wordXKK 0xF#4 x 0x15#8) = .ldDtV x ∧ ∃ t, exec (.ldDtV x) s = .next t ∧
      t.dt = s.reg x ∧ t.pc = s.pc + 2 ∧ Frame s t noReg [.pc, .delay]) ∧
    (decode (wordXKK 0xF#4 x 0x18#8) = .ldStV x ∧ ∃ t, exec (.ldStV x) s = .next t ∧
      t.st = s.reg x ∧ t.pc = s.pc + 2 ∧ Frame s t noReg [.pc, .sound])

/-! ## Whole-machine rules -/

/-- 10_state.md R31, R38, 60_exceptions.md R216: no instruction reads ST or the redraw flag: a run with another value
there differs, after any instruction, in that element alone. -/
def Obligations.SoundTimerAndRedrawAreNotObserved : Prop :=
  ∀ (i : Instr) (s t : State) (b : Byte) (f : Bool), exec i s = .next t →
    (∃ b', exec i (s.setSound b) = .next (t.setSound b')) ∧ (∃ f', exec i (s.setRedraw f) = .next (t.setRedraw f'))

/-- 10_state.md R38: a stack entry at or above SP is not observed by any instruction. -/
def Obligations.StaleStackEntriesAreNotObserved : Prop :=
  ∀ (i : Instr) (s t : State) (j : Fin 16) (w : Word), s.sp.val ≤ j.val → exec i s = .next t →
    ∃ w', exec i { s with stack := s.stack.set j w } = .next { t with stack := t.stack.set j w' }

/-- 60_exceptions.md R208, R214, 40_sequencer.md R109: but for the three forms that read or write a timer, a tick before
an instruction and a tick after it leave the same state. That both orders are runs is the spec's own decision D20 (log
entry 18). -/
def Obligations.TickCommutesWithOtherForms : Prop :=
  ∀ (i : Instr) (s t : State), (∀ x, i ≠ .ldVDt x ∧ i ≠ .ldDtV x ∧ i ≠ .ldStV x) → exec i s = .next t →
    exec i (tick s) = .next (tick t)

/-- 60_exceptions.md R226, 41_flow.md R121: a step at an idle loop changes nothing. The end condition is the spec's own
decision D24 (log entry 18). -/
def Obligations.IdleLoopStepChangesNothing : Prop :=
  ∀ s : State, s.halted = false → s.schedule = [] → s.idleLoop → step s = .next s
end

