-- ==== Sys2Proof/Laws/Memory.lean ====
section
/-! SUPPORT. The laws of memory: a read after a write, the canonical form that every operation keeps, and that the
form makes equal memories equal data (spec/20_memory.md R69, R71). -/

namespace Sys2Proof.Machine

variable {m : List Host.Cell} {a b : Nat} {w : Byte}

/-! ### Lookup -/

theorem Memory.lookup_insert : Memory.lookup (Memory.insert m a w) b = if b = a then some w else Memory.lookup m b := by
  induction m with
  | nil => simp [Memory.insert, Memory.lookup, eq_comm]
  | cons c m ih =>
    obtain ⟨d, u⟩ := c
    unfold Memory.insert
    split
    · simp [Memory.lookup, eq_comm]
    · split
      · subst d; by_cases h : a = b <;> simp [Memory.lookup, h, eq_comm]
      · by_cases h : d = b
        · subst d; simp [Memory.lookup]; intro h; omega
        · simp [Memory.lookup, h, ih]

theorem Memory.lookup_erase : Memory.lookup (Memory.erase m a) b = if b = a then none else Memory.lookup m b := by
  induction m with
  | nil => simp [Memory.erase, Memory.lookup]
  | cons c m ih =>
    obtain ⟨d, u⟩ := c
    unfold Memory.erase at ih ⊢
    by_cases h : d = a
    · subst d
      by_cases hb : b = a <;> simp_all [Memory.lookup, eq_comm]
    · by_cases hb : d = b
      · subst d; simp [h, Memory.lookup]
      · simp [h, hb, Memory.lookup, ih]

/-! ### Reads and writes (R69) -/

/-- A read gives the last byte written there, and a write changes no other byte. -/
theorem Memory.read_write : Memory.read (Memory.write m a w) b = if b = a then w else Memory.read m b := by
  unfold Memory.read Memory.write
  split
  · next h =>
    rw [Memory.lookup_erase]
    by_cases hb : b = a
    · subst b; simp [bootByte, h]
    · simp [hb]
  · rw [Memory.lookup_insert]
    by_cases hb : b = a <;> simp [hb]

@[simp] theorem Memory.read_write_same : Memory.read (Memory.write m a w) a = w := by simp [Memory.read_write]

theorem Memory.read_write_other (h : b ≠ a) : Memory.read (Memory.write m a w) b = Memory.read m b := by
  simp [Memory.read_write, h]

/-- What consecutive writes leave: the byte of the sequence at its place, and every other byte as it was. -/
theorem Memory.read_writeBytes (ws : List Byte) :
    Memory.read (Memory.writeBytes m a ws) b =
      if h : a ≤ b ∧ b < a + ws.length then ws[b - a]'(by omega) else Memory.read m b := by
  induction ws generalizing m a with
  | nil => simp [Memory.writeBytes]
  | cons v ws ih =>
    rw [Memory.writeBytes, ih, Memory.read_write]
    rcases Nat.lt_trichotomy b a with h | h | h
    · have h1 : ¬ (a + 1 ≤ b ∧ b < a + 1 + ws.length) := by omega
      have h2 : ¬ (a ≤ b ∧ b < a + (v :: ws).length) := by omega
      rw [dif_neg h1, dif_neg h2, if_neg (by omega)]
    · subst b
      have h1 : ¬ (a + 1 ≤ a ∧ a < a + 1 + ws.length) := by omega
      simp
    · by_cases hb : b < a + 1 + ws.length
      · have h2 : a ≤ b ∧ b < a + (v :: ws).length := by simp; omega
        rw [dif_pos ⟨by omega, hb⟩, dif_pos h2]
        obtain ⟨k, rfl⟩ : ∃ k, b = a + (k + 1) := ⟨b - a - 1, by omega⟩
        simp [show a + (k + 1) - (a + 1) = k by omega, show a + (k + 1) - a = k + 1 by omega]
      · have h2 : ¬ (a ≤ b ∧ b < a + (v :: ws).length) := by simp; omega
        rw [dif_neg (by omega), dif_neg h2, if_neg (by omega)]

/-! ### The canonical form -/

theorem Memory.mem_insert {c : Host.Cell} (h : c ∈ Memory.insert m a w) : c = (a, w) ∨ c ∈ m := by
  induction m with
  | nil => simpa [Memory.insert] using h
  | cons d m ih =>
    obtain ⟨d, u⟩ := d
    unfold Memory.insert at h
    split at h
    · simpa using h
    · split at h
      · rcases List.mem_cons.1 h with h | h
        · exact .inl h
        · exact .inr (List.mem_cons_of_mem _ h)
      · rcases List.mem_cons.1 h with h | h
        · exact .inr (h ▸ List.mem_cons_self)
        · exact (ih h).imp id (List.mem_cons_of_mem _)

theorem Memory.pairwise_insert (hm : m.Pairwise (fun c d => c.1 < d.1)) :
    (Memory.insert m a w).Pairwise (fun c d => c.1 < d.1) := by
  induction m with
  | nil => simp [Memory.insert]
  | cons d m ih =>
    obtain ⟨d, u⟩ := d
    rw [List.pairwise_cons] at hm
    unfold Memory.insert
    split
    · next h =>
      refine List.pairwise_cons.2 ⟨fun c hc => ?_, List.pairwise_cons.2 hm⟩
      rcases List.mem_cons.1 hc with rfl | hc
      · exact h
      · exact Nat.lt_trans h (hm.1 c hc)
    · split
      · next h => subst h; exact List.pairwise_cons.2 hm
      · next h1 h2 =>
        refine List.pairwise_cons.2 ⟨fun c hc => ?_, ih hm.2⟩
        rcases Memory.mem_insert hc with rfl | hc
        · show d < a; omega
        · exact hm.1 c hc

theorem Memory.wf_nil : Memory.wf [] := ⟨List.Pairwise.nil, by simp⟩

theorem Memory.wf_write (hm : Memory.wf m) (ha : a < memSize) : Memory.wf (Memory.write m a w) := by
  unfold Memory.write
  split
  · exact ⟨hm.1.filter _, fun c hc => hm.2 c (List.mem_of_mem_filter hc)⟩
  · next h =>
    refine ⟨Memory.pairwise_insert hm.1, fun c hc => ?_⟩
    rcases Memory.mem_insert hc with rfl | hc
    · exact ⟨ha, h⟩
    · exact hm.2 c hc

theorem Memory.wf_writeBytes {ws : List Byte} (hm : Memory.wf m) (ha : a + ws.length ≤ memSize) :
    Memory.wf (Memory.writeBytes m a ws) := by
  induction ws generalizing m a with
  | nil => exact hm
  | cons v ws ih =>
    rw [List.length_cons] at ha
    exact ih (Memory.wf_write hm (by omega)) (by omega)

theorem Memory.wf_writeCells {cs : List Host.Cell} (hm : Memory.wf m) : Memory.wf (Memory.writeCells m cs) := by
  induction cs generalizing m with
  | nil => exact hm
  | cons c cs ih =>
    obtain ⟨d, u⟩ := c
    unfold Memory.writeCells
    split
    · next h => exact ih (Memory.wf_write hm h)
    · exact ih hm

theorem bootMemory_wf {b : BootImage} (h : b.image.length ≤ maxImage) : Memory.wf (bootMemory b) := by
  refine Memory.wf_writeBytes (Memory.wf_writeBytes (Memory.wf_writeCells Memory.wf_nil) ?_) ?_
  · simp [memSize]
  · simp only [memSize, progBase, maxImage] at *; omega

theorem State.reset_mem_wf : Memory.wf State.reset.mem := Memory.wf_nil

/-- In canonical form, memories that list the same bytes are the same data. -/
theorem Memory.ext_lookup {m' : List Host.Cell} (hm : m.Pairwise (fun c d => c.1 < d.1))
    (hm' : m'.Pairwise (fun c d => c.1 < d.1)) (h : ∀ a, Memory.lookup m a = Memory.lookup m' a) : m = m' := by
  have none_below : ∀ (l : List Host.Cell) (x : Nat), (∀ c ∈ l, x < c.1) → Memory.lookup l x = none := by
    intro l x hl
    induction l with
    | nil => rfl
    | cons c l ih =>
      obtain ⟨d, u⟩ := c
      have hd : x < d := hl (d, u) List.mem_cons_self
      rw [Memory.lookup, if_neg (by omega)]
      exact ih (fun c hc => hl c (List.mem_cons_of_mem _ hc))
  induction m generalizing m' with
  | nil =>
    cases m' with
    | nil => rfl
    | cons c m' => obtain ⟨d, u⟩ := c; simpa [Memory.lookup] using h d
  | cons c m ih =>
    obtain ⟨d, u⟩ := c
    cases m' with
    | nil => simpa [Memory.lookup] using h d
    | cons c' m' =>
      obtain ⟨d', u'⟩ := c'
      rw [List.pairwise_cons] at hm hm'
      have hd : d = d' := by
        rcases Nat.lt_trichotomy d d' with hlt | heq | hgt
        · have := h d
          rw [none_below ((d', u') :: m') d (by
            intro c hc
            rcases List.mem_cons.1 hc with rfl | hc
            · exact hlt
            · exact Nat.lt_trans hlt (hm'.1 c hc))] at this
          simp [Memory.lookup] at this
        · exact heq
        · have := h d'
          rw [none_below ((d, u) :: m) d' (by
            intro c hc
            rcases List.mem_cons.1 hc with rfl | hc
            · exact hgt
            · exact Nat.lt_trans hgt (hm.1 c hc))] at this
          simp [Memory.lookup] at this
      subst d'
      have hu : u = u' := by simpa [Memory.lookup] using h d
      subst u'
      congr 1
      refine ih hm.2 hm'.2 fun a => ?_
      by_cases had : d = a
      · subst had
        rw [none_below m d hm.1, none_below m' d hm'.1]
      · simpa [Memory.lookup, had] using h a

end Sys2Proof.Machine
end

