-- ==== Sys2Proof/Laws/State.lean ====
section
/-! SUPPORT. What each named update leaves in each field of the state, one rewriting lemma per field and update,
and the derived updates in terms of them. Later proofs unfold no record update. -/

namespace Sys2Proof.Machine

/-! ### State.writeByte -/

@[simp] theorem State.writeByte_v (s : State) (a : Nat) (w : Byte) : (s.writeByte a w).v = s.v := rfl
@[simp] theorem State.writeByte_i (s : State) (a : Nat) (w : Byte) : (s.writeByte a w).i = s.i := rfl
@[simp] theorem State.writeByte_pc (s : State) (a : Nat) (w : Byte) : (s.writeByte a w).pc = s.pc := rfl
@[simp] theorem State.writeByte_stack (s : State) (a : Nat) (w : Byte) : (s.writeByte a w).stack = s.stack := rfl
@[simp] theorem State.writeByte_sp (s : State) (a : Nat) (w : Byte) : (s.writeByte a w).sp = s.sp := rfl
@[simp] theorem State.writeByte_dt (s : State) (a : Nat) (w : Byte) : (s.writeByte a w).dt = s.dt := rfl
@[simp] theorem State.writeByte_st (s : State) (a : Nat) (w : Byte) : (s.writeByte a w).st = s.st := rfl
@[simp] theorem State.writeByte_disp (s : State) (a : Nat) (w : Byte) : (s.writeByte a w).disp = s.disp := rfl
@[simp] theorem State.writeByte_redraw (s : State) (a : Nat) (w : Byte) : (s.writeByte a w).redraw = s.redraw := rfl
@[simp] theorem State.writeByte_keys (s : State) (a : Nat) (w : Byte) : (s.writeByte a w).keys = s.keys := rfl
@[simp] theorem State.writeByte_mem (s : State) (a : Nat) (w : Byte) : (s.writeByte a w).mem = Memory.write s.mem a w := rfl
@[simp] theorem State.writeByte_halted (s : State) (a : Nat) (w : Byte) : (s.writeByte a w).halted = s.halted := rfl
@[simp] theorem State.writeByte_faultCause (s : State) (a : Nat) (w : Byte) : (s.writeByte a w).faultCause = s.faultCause := rfl
@[simp] theorem State.writeByte_faultPc (s : State) (a : Nat) (w : Byte) : (s.writeByte a w).faultPc = s.faultPc := rfl
@[simp] theorem State.writeByte_faultOpcode (s : State) (a : Nat) (w : Byte) : (s.writeByte a w).faultOpcode = s.faultOpcode := rfl
@[simp] theorem State.writeByte_params (s : State) (a : Nat) (w : Byte) : (s.writeByte a w).params = s.params := rfl
@[simp] theorem State.writeByte_draws (s : State) (a : Nat) (w : Byte) : (s.writeByte a w).draws = s.draws := rfl
@[simp] theorem State.writeByte_reports (s : State) (a : Nat) (w : Byte) : (s.writeByte a w).reports = s.reports := rfl
@[simp] theorem State.writeByte_schedule (s : State) (a : Nat) (w : Byte) : (s.writeByte a w).schedule = s.schedule := rfl
@[simp] theorem State.writeByte_reg (s : State) (a : Nat) (w : Byte) (y : Reg) : (s.writeByte a w).reg y = s.reg y := rfl
@[simp] theorem State.writeByte_pixel (s : State) (a : Nat) (w : Byte) (p : Fin 32) (q : Fin 64) : (s.writeByte a w).pixel p q = s.pixel p q := rfl
@[simp] theorem State.writeByte_key (s : State) (a : Nat) (w : Byte) (z : Key) : (s.writeByte a w).key z = s.key z := rfl

/-! ### State.writeBytes -/

@[simp] theorem State.writeBytes_v (s : State) (a : Nat) (ws : List Byte) : (s.writeBytes a ws).v = s.v := rfl
@[simp] theorem State.writeBytes_i (s : State) (a : Nat) (ws : List Byte) : (s.writeBytes a ws).i = s.i := rfl
@[simp] theorem State.writeBytes_pc (s : State) (a : Nat) (ws : List Byte) : (s.writeBytes a ws).pc = s.pc := rfl
@[simp] theorem State.writeBytes_stack (s : State) (a : Nat) (ws : List Byte) : (s.writeBytes a ws).stack = s.stack := rfl
@[simp] theorem State.writeBytes_sp (s : State) (a : Nat) (ws : List Byte) : (s.writeBytes a ws).sp = s.sp := rfl
@[simp] theorem State.writeBytes_dt (s : State) (a : Nat) (ws : List Byte) : (s.writeBytes a ws).dt = s.dt := rfl
@[simp] theorem State.writeBytes_st (s : State) (a : Nat) (ws : List Byte) : (s.writeBytes a ws).st = s.st := rfl
@[simp] theorem State.writeBytes_disp (s : State) (a : Nat) (ws : List Byte) : (s.writeBytes a ws).disp = s.disp := rfl
@[simp] theorem State.writeBytes_redraw (s : State) (a : Nat) (ws : List Byte) : (s.writeBytes a ws).redraw = s.redraw := rfl
@[simp] theorem State.writeBytes_keys (s : State) (a : Nat) (ws : List Byte) : (s.writeBytes a ws).keys = s.keys := rfl
@[simp] theorem State.writeBytes_mem (s : State) (a : Nat) (ws : List Byte) : (s.writeBytes a ws).mem = Memory.writeBytes s.mem a ws := rfl
@[simp] theorem State.writeBytes_halted (s : State) (a : Nat) (ws : List Byte) : (s.writeBytes a ws).halted = s.halted := rfl
@[simp] theorem State.writeBytes_faultCause (s : State) (a : Nat) (ws : List Byte) : (s.writeBytes a ws).faultCause = s.faultCause := rfl
@[simp] theorem State.writeBytes_faultPc (s : State) (a : Nat) (ws : List Byte) : (s.writeBytes a ws).faultPc = s.faultPc := rfl
@[simp] theorem State.writeBytes_faultOpcode (s : State) (a : Nat) (ws : List Byte) : (s.writeBytes a ws).faultOpcode = s.faultOpcode := rfl
@[simp] theorem State.writeBytes_params (s : State) (a : Nat) (ws : List Byte) : (s.writeBytes a ws).params = s.params := rfl
@[simp] theorem State.writeBytes_draws (s : State) (a : Nat) (ws : List Byte) : (s.writeBytes a ws).draws = s.draws := rfl
@[simp] theorem State.writeBytes_reports (s : State) (a : Nat) (ws : List Byte) : (s.writeBytes a ws).reports = s.reports := rfl
@[simp] theorem State.writeBytes_schedule (s : State) (a : Nat) (ws : List Byte) : (s.writeBytes a ws).schedule = s.schedule := rfl
@[simp] theorem State.writeBytes_reg (s : State) (a : Nat) (ws : List Byte) (y : Reg) : (s.writeBytes a ws).reg y = s.reg y := rfl
@[simp] theorem State.writeBytes_pixel (s : State) (a : Nat) (ws : List Byte) (p : Fin 32) (q : Fin 64) : (s.writeBytes a ws).pixel p q = s.pixel p q := rfl
@[simp] theorem State.writeBytes_key (s : State) (a : Nat) (ws : List Byte) (z : Key) : (s.writeBytes a ws).key z = s.key z := rfl

/-! ### State.setReg -/

@[simp] theorem State.setReg_v (s : State) (x : Reg) (b : Byte) : (s.setReg x b).v = s.v.set x.toNat b x.isLt := rfl
@[simp] theorem State.setReg_i (s : State) (x : Reg) (b : Byte) : (s.setReg x b).i = s.i := rfl
@[simp] theorem State.setReg_pc (s : State) (x : Reg) (b : Byte) : (s.setReg x b).pc = s.pc := rfl
@[simp] theorem State.setReg_stack (s : State) (x : Reg) (b : Byte) : (s.setReg x b).stack = s.stack := rfl
@[simp] theorem State.setReg_sp (s : State) (x : Reg) (b : Byte) : (s.setReg x b).sp = s.sp := rfl
@[simp] theorem State.setReg_dt (s : State) (x : Reg) (b : Byte) : (s.setReg x b).dt = s.dt := rfl
@[simp] theorem State.setReg_st (s : State) (x : Reg) (b : Byte) : (s.setReg x b).st = s.st := rfl
@[simp] theorem State.setReg_disp (s : State) (x : Reg) (b : Byte) : (s.setReg x b).disp = s.disp := rfl
@[simp] theorem State.setReg_redraw (s : State) (x : Reg) (b : Byte) : (s.setReg x b).redraw = s.redraw := rfl
@[simp] theorem State.setReg_keys (s : State) (x : Reg) (b : Byte) : (s.setReg x b).keys = s.keys := rfl
@[simp] theorem State.setReg_mem (s : State) (x : Reg) (b : Byte) : (s.setReg x b).mem = s.mem := rfl
@[simp] theorem State.setReg_halted (s : State) (x : Reg) (b : Byte) : (s.setReg x b).halted = s.halted := rfl
@[simp] theorem State.setReg_faultCause (s : State) (x : Reg) (b : Byte) : (s.setReg x b).faultCause = s.faultCause := rfl
@[simp] theorem State.setReg_faultPc (s : State) (x : Reg) (b : Byte) : (s.setReg x b).faultPc = s.faultPc := rfl
@[simp] theorem State.setReg_faultOpcode (s : State) (x : Reg) (b : Byte) : (s.setReg x b).faultOpcode = s.faultOpcode := rfl
@[simp] theorem State.setReg_params (s : State) (x : Reg) (b : Byte) : (s.setReg x b).params = s.params := rfl
@[simp] theorem State.setReg_draws (s : State) (x : Reg) (b : Byte) : (s.setReg x b).draws = s.draws := rfl
@[simp] theorem State.setReg_reports (s : State) (x : Reg) (b : Byte) : (s.setReg x b).reports = s.reports := rfl
@[simp] theorem State.setReg_schedule (s : State) (x : Reg) (b : Byte) : (s.setReg x b).schedule = s.schedule := rfl
@[simp] theorem State.setReg_readByte (s : State) (x : Reg) (b : Byte) (z : Nat) : (s.setReg x b).readByte z = s.readByte z := rfl
@[simp] theorem State.setReg_pixel (s : State) (x : Reg) (b : Byte) (p : Fin 32) (q : Fin 64) : (s.setReg x b).pixel p q = s.pixel p q := rfl
@[simp] theorem State.setReg_key (s : State) (x : Reg) (b : Byte) (z : Key) : (s.setReg x b).key z = s.key z := rfl

/-! ### State.setIndex -/

@[simp] theorem State.setIndex_v (s : State) (w : Word) : (s.setIndex w).v = s.v := rfl
@[simp] theorem State.setIndex_i (s : State) (w : Word) : (s.setIndex w).i = w := rfl
@[simp] theorem State.setIndex_pc (s : State) (w : Word) : (s.setIndex w).pc = s.pc := rfl
@[simp] theorem State.setIndex_stack (s : State) (w : Word) : (s.setIndex w).stack = s.stack := rfl
@[simp] theorem State.setIndex_sp (s : State) (w : Word) : (s.setIndex w).sp = s.sp := rfl
@[simp] theorem State.setIndex_dt (s : State) (w : Word) : (s.setIndex w).dt = s.dt := rfl
@[simp] theorem State.setIndex_st (s : State) (w : Word) : (s.setIndex w).st = s.st := rfl
@[simp] theorem State.setIndex_disp (s : State) (w : Word) : (s.setIndex w).disp = s.disp := rfl
@[simp] theorem State.setIndex_redraw (s : State) (w : Word) : (s.setIndex w).redraw = s.redraw := rfl
@[simp] theorem State.setIndex_keys (s : State) (w : Word) : (s.setIndex w).keys = s.keys := rfl
@[simp] theorem State.setIndex_mem (s : State) (w : Word) : (s.setIndex w).mem = s.mem := rfl
@[simp] theorem State.setIndex_halted (s : State) (w : Word) : (s.setIndex w).halted = s.halted := rfl
@[simp] theorem State.setIndex_faultCause (s : State) (w : Word) : (s.setIndex w).faultCause = s.faultCause := rfl
@[simp] theorem State.setIndex_faultPc (s : State) (w : Word) : (s.setIndex w).faultPc = s.faultPc := rfl
@[simp] theorem State.setIndex_faultOpcode (s : State) (w : Word) : (s.setIndex w).faultOpcode = s.faultOpcode := rfl
@[simp] theorem State.setIndex_params (s : State) (w : Word) : (s.setIndex w).params = s.params := rfl
@[simp] theorem State.setIndex_draws (s : State) (w : Word) : (s.setIndex w).draws = s.draws := rfl
@[simp] theorem State.setIndex_reports (s : State) (w : Word) : (s.setIndex w).reports = s.reports := rfl
@[simp] theorem State.setIndex_schedule (s : State) (w : Word) : (s.setIndex w).schedule = s.schedule := rfl
@[simp] theorem State.setIndex_reg (s : State) (w : Word) (y : Reg) : (s.setIndex w).reg y = s.reg y := rfl
@[simp] theorem State.setIndex_readByte (s : State) (w : Word) (z : Nat) : (s.setIndex w).readByte z = s.readByte z := rfl
@[simp] theorem State.setIndex_pixel (s : State) (w : Word) (p : Fin 32) (q : Fin 64) : (s.setIndex w).pixel p q = s.pixel p q := rfl
@[simp] theorem State.setIndex_key (s : State) (w : Word) (z : Key) : (s.setIndex w).key z = s.key z := rfl

/-! ### State.setDelay -/

@[simp] theorem State.setDelay_v (s : State) (b : Byte) : (s.setDelay b).v = s.v := rfl
@[simp] theorem State.setDelay_i (s : State) (b : Byte) : (s.setDelay b).i = s.i := rfl
@[simp] theorem State.setDelay_pc (s : State) (b : Byte) : (s.setDelay b).pc = s.pc := rfl
@[simp] theorem State.setDelay_stack (s : State) (b : Byte) : (s.setDelay b).stack = s.stack := rfl
@[simp] theorem State.setDelay_sp (s : State) (b : Byte) : (s.setDelay b).sp = s.sp := rfl
@[simp] theorem State.setDelay_dt (s : State) (b : Byte) : (s.setDelay b).dt = b := rfl
@[simp] theorem State.setDelay_st (s : State) (b : Byte) : (s.setDelay b).st = s.st := rfl
@[simp] theorem State.setDelay_disp (s : State) (b : Byte) : (s.setDelay b).disp = s.disp := rfl
@[simp] theorem State.setDelay_redraw (s : State) (b : Byte) : (s.setDelay b).redraw = s.redraw := rfl
@[simp] theorem State.setDelay_keys (s : State) (b : Byte) : (s.setDelay b).keys = s.keys := rfl
@[simp] theorem State.setDelay_mem (s : State) (b : Byte) : (s.setDelay b).mem = s.mem := rfl
@[simp] theorem State.setDelay_halted (s : State) (b : Byte) : (s.setDelay b).halted = s.halted := rfl
@[simp] theorem State.setDelay_faultCause (s : State) (b : Byte) : (s.setDelay b).faultCause = s.faultCause := rfl
@[simp] theorem State.setDelay_faultPc (s : State) (b : Byte) : (s.setDelay b).faultPc = s.faultPc := rfl
@[simp] theorem State.setDelay_faultOpcode (s : State) (b : Byte) : (s.setDelay b).faultOpcode = s.faultOpcode := rfl
@[simp] theorem State.setDelay_params (s : State) (b : Byte) : (s.setDelay b).params = s.params := rfl
@[simp] theorem State.setDelay_draws (s : State) (b : Byte) : (s.setDelay b).draws = s.draws := rfl
@[simp] theorem State.setDelay_reports (s : State) (b : Byte) : (s.setDelay b).reports = s.reports := rfl
@[simp] theorem State.setDelay_schedule (s : State) (b : Byte) : (s.setDelay b).schedule = s.schedule := rfl
@[simp] theorem State.setDelay_reg (s : State) (b : Byte) (y : Reg) : (s.setDelay b).reg y = s.reg y := rfl
@[simp] theorem State.setDelay_readByte (s : State) (b : Byte) (z : Nat) : (s.setDelay b).readByte z = s.readByte z := rfl
@[simp] theorem State.setDelay_pixel (s : State) (b : Byte) (p : Fin 32) (q : Fin 64) : (s.setDelay b).pixel p q = s.pixel p q := rfl
@[simp] theorem State.setDelay_key (s : State) (b : Byte) (z : Key) : (s.setDelay b).key z = s.key z := rfl

/-! ### State.setSound -/

@[simp] theorem State.setSound_v (s : State) (b : Byte) : (s.setSound b).v = s.v := rfl
@[simp] theorem State.setSound_i (s : State) (b : Byte) : (s.setSound b).i = s.i := rfl
@[simp] theorem State.setSound_pc (s : State) (b : Byte) : (s.setSound b).pc = s.pc := rfl
@[simp] theorem State.setSound_stack (s : State) (b : Byte) : (s.setSound b).stack = s.stack := rfl
@[simp] theorem State.setSound_sp (s : State) (b : Byte) : (s.setSound b).sp = s.sp := rfl
@[simp] theorem State.setSound_dt (s : State) (b : Byte) : (s.setSound b).dt = s.dt := rfl
@[simp] theorem State.setSound_st (s : State) (b : Byte) : (s.setSound b).st = b := rfl
@[simp] theorem State.setSound_disp (s : State) (b : Byte) : (s.setSound b).disp = s.disp := rfl
@[simp] theorem State.setSound_redraw (s : State) (b : Byte) : (s.setSound b).redraw = s.redraw := rfl
@[simp] theorem State.setSound_keys (s : State) (b : Byte) : (s.setSound b).keys = s.keys := rfl
@[simp] theorem State.setSound_mem (s : State) (b : Byte) : (s.setSound b).mem = s.mem := rfl
@[simp] theorem State.setSound_halted (s : State) (b : Byte) : (s.setSound b).halted = s.halted := rfl
@[simp] theorem State.setSound_faultCause (s : State) (b : Byte) : (s.setSound b).faultCause = s.faultCause := rfl
@[simp] theorem State.setSound_faultPc (s : State) (b : Byte) : (s.setSound b).faultPc = s.faultPc := rfl
@[simp] theorem State.setSound_faultOpcode (s : State) (b : Byte) : (s.setSound b).faultOpcode = s.faultOpcode := rfl
@[simp] theorem State.setSound_params (s : State) (b : Byte) : (s.setSound b).params = s.params := rfl
@[simp] theorem State.setSound_draws (s : State) (b : Byte) : (s.setSound b).draws = s.draws := rfl
@[simp] theorem State.setSound_reports (s : State) (b : Byte) : (s.setSound b).reports = s.reports := rfl
@[simp] theorem State.setSound_schedule (s : State) (b : Byte) : (s.setSound b).schedule = s.schedule := rfl
@[simp] theorem State.setSound_reg (s : State) (b : Byte) (y : Reg) : (s.setSound b).reg y = s.reg y := rfl
@[simp] theorem State.setSound_readByte (s : State) (b : Byte) (z : Nat) : (s.setSound b).readByte z = s.readByte z := rfl
@[simp] theorem State.setSound_pixel (s : State) (b : Byte) (p : Fin 32) (q : Fin 64) : (s.setSound b).pixel p q = s.pixel p q := rfl
@[simp] theorem State.setSound_key (s : State) (b : Byte) (z : Key) : (s.setSound b).key z = s.key z := rfl

/-! ### State.setPc -/

@[simp] theorem State.setPc_v (s : State) (w : Word) : (s.setPc w).v = s.v := rfl
@[simp] theorem State.setPc_i (s : State) (w : Word) : (s.setPc w).i = s.i := rfl
@[simp] theorem State.setPc_pc (s : State) (w : Word) : (s.setPc w).pc = w := rfl
@[simp] theorem State.setPc_stack (s : State) (w : Word) : (s.setPc w).stack = s.stack := rfl
@[simp] theorem State.setPc_sp (s : State) (w : Word) : (s.setPc w).sp = s.sp := rfl
@[simp] theorem State.setPc_dt (s : State) (w : Word) : (s.setPc w).dt = s.dt := rfl
@[simp] theorem State.setPc_st (s : State) (w : Word) : (s.setPc w).st = s.st := rfl
@[simp] theorem State.setPc_disp (s : State) (w : Word) : (s.setPc w).disp = s.disp := rfl
@[simp] theorem State.setPc_redraw (s : State) (w : Word) : (s.setPc w).redraw = s.redraw := rfl
@[simp] theorem State.setPc_keys (s : State) (w : Word) : (s.setPc w).keys = s.keys := rfl
@[simp] theorem State.setPc_mem (s : State) (w : Word) : (s.setPc w).mem = s.mem := rfl
@[simp] theorem State.setPc_halted (s : State) (w : Word) : (s.setPc w).halted = s.halted := rfl
@[simp] theorem State.setPc_faultCause (s : State) (w : Word) : (s.setPc w).faultCause = s.faultCause := rfl
@[simp] theorem State.setPc_faultPc (s : State) (w : Word) : (s.setPc w).faultPc = s.faultPc := rfl
@[simp] theorem State.setPc_faultOpcode (s : State) (w : Word) : (s.setPc w).faultOpcode = s.faultOpcode := rfl
@[simp] theorem State.setPc_params (s : State) (w : Word) : (s.setPc w).params = s.params := rfl
@[simp] theorem State.setPc_draws (s : State) (w : Word) : (s.setPc w).draws = s.draws := rfl
@[simp] theorem State.setPc_reports (s : State) (w : Word) : (s.setPc w).reports = s.reports := rfl
@[simp] theorem State.setPc_schedule (s : State) (w : Word) : (s.setPc w).schedule = s.schedule := rfl
@[simp] theorem State.setPc_reg (s : State) (w : Word) (y : Reg) : (s.setPc w).reg y = s.reg y := rfl
@[simp] theorem State.setPc_readByte (s : State) (w : Word) (z : Nat) : (s.setPc w).readByte z = s.readByte z := rfl
@[simp] theorem State.setPc_pixel (s : State) (w : Word) (p : Fin 32) (q : Fin 64) : (s.setPc w).pixel p q = s.pixel p q := rfl
@[simp] theorem State.setPc_key (s : State) (w : Word) (z : Key) : (s.setPc w).key z = s.key z := rfl

/-! ### State.push -/

@[simp] theorem State.push_v (s : State) (w : Word) : (s.push w).v = s.v := rfl
@[simp] theorem State.push_i (s : State) (w : Word) : (s.push w).i = s.i := rfl
@[simp] theorem State.push_pc (s : State) (w : Word) : (s.push w).pc = s.pc := rfl
@[simp] theorem State.push_stack (s : State) (w : Word) : (s.push w).stack = s.stack.setIfInBounds s.sp.val w := rfl
@[simp] theorem State.push_sp (s : State) (w : Word) : (s.push w).sp = ⟨min (s.sp.val + 1) 16, by omega⟩ := rfl
@[simp] theorem State.push_dt (s : State) (w : Word) : (s.push w).dt = s.dt := rfl
@[simp] theorem State.push_st (s : State) (w : Word) : (s.push w).st = s.st := rfl
@[simp] theorem State.push_disp (s : State) (w : Word) : (s.push w).disp = s.disp := rfl
@[simp] theorem State.push_redraw (s : State) (w : Word) : (s.push w).redraw = s.redraw := rfl
@[simp] theorem State.push_keys (s : State) (w : Word) : (s.push w).keys = s.keys := rfl
@[simp] theorem State.push_mem (s : State) (w : Word) : (s.push w).mem = s.mem := rfl
@[simp] theorem State.push_halted (s : State) (w : Word) : (s.push w).halted = s.halted := rfl
@[simp] theorem State.push_faultCause (s : State) (w : Word) : (s.push w).faultCause = s.faultCause := rfl
@[simp] theorem State.push_faultPc (s : State) (w : Word) : (s.push w).faultPc = s.faultPc := rfl
@[simp] theorem State.push_faultOpcode (s : State) (w : Word) : (s.push w).faultOpcode = s.faultOpcode := rfl
@[simp] theorem State.push_params (s : State) (w : Word) : (s.push w).params = s.params := rfl
@[simp] theorem State.push_draws (s : State) (w : Word) : (s.push w).draws = s.draws := rfl
@[simp] theorem State.push_reports (s : State) (w : Word) : (s.push w).reports = s.reports := rfl
@[simp] theorem State.push_schedule (s : State) (w : Word) : (s.push w).schedule = s.schedule := rfl
@[simp] theorem State.push_reg (s : State) (w : Word) (y : Reg) : (s.push w).reg y = s.reg y := rfl
@[simp] theorem State.push_readByte (s : State) (w : Word) (z : Nat) : (s.push w).readByte z = s.readByte z := rfl
@[simp] theorem State.push_pixel (s : State) (w : Word) (p : Fin 32) (q : Fin 64) : (s.push w).pixel p q = s.pixel p q := rfl
@[simp] theorem State.push_key (s : State) (w : Word) (z : Key) : (s.push w).key z = s.key z := rfl

/-! ### State.pop -/

@[simp] theorem State.pop_v (s : State) : s.pop.v = s.v := rfl
@[simp] theorem State.pop_i (s : State) : s.pop.i = s.i := rfl
@[simp] theorem State.pop_pc (s : State) : s.pop.pc = s.pc := rfl
@[simp] theorem State.pop_stack (s : State) : s.pop.stack = s.stack := rfl
@[simp] theorem State.pop_sp (s : State) : s.pop.sp = ⟨s.sp.val - 1, by have := s.sp.isLt; omega⟩ := rfl
@[simp] theorem State.pop_dt (s : State) : s.pop.dt = s.dt := rfl
@[simp] theorem State.pop_st (s : State) : s.pop.st = s.st := rfl
@[simp] theorem State.pop_disp (s : State) : s.pop.disp = s.disp := rfl
@[simp] theorem State.pop_redraw (s : State) : s.pop.redraw = s.redraw := rfl
@[simp] theorem State.pop_keys (s : State) : s.pop.keys = s.keys := rfl
@[simp] theorem State.pop_mem (s : State) : s.pop.mem = s.mem := rfl
@[simp] theorem State.pop_halted (s : State) : s.pop.halted = s.halted := rfl
@[simp] theorem State.pop_faultCause (s : State) : s.pop.faultCause = s.faultCause := rfl
@[simp] theorem State.pop_faultPc (s : State) : s.pop.faultPc = s.faultPc := rfl
@[simp] theorem State.pop_faultOpcode (s : State) : s.pop.faultOpcode = s.faultOpcode := rfl
@[simp] theorem State.pop_params (s : State) : s.pop.params = s.params := rfl
@[simp] theorem State.pop_draws (s : State) : s.pop.draws = s.draws := rfl
@[simp] theorem State.pop_reports (s : State) : s.pop.reports = s.reports := rfl
@[simp] theorem State.pop_schedule (s : State) : s.pop.schedule = s.schedule := rfl
@[simp] theorem State.pop_reg (s : State) (y : Reg) : s.pop.reg y = s.reg y := rfl
@[simp] theorem State.pop_readByte (s : State) (z : Nat) : s.pop.readByte z = s.readByte z := rfl
@[simp] theorem State.pop_pixel (s : State) (p : Fin 32) (q : Fin 64) : s.pop.pixel p q = s.pixel p q := rfl
@[simp] theorem State.pop_key (s : State) (z : Key) : s.pop.key z = s.key z := rfl

/-! ### State.flipPixel -/

@[simp] theorem State.flipPixel_v (s : State) (r : Fin 32) (c : Fin 64) : (s.flipPixel r c).v = s.v := rfl
@[simp] theorem State.flipPixel_i (s : State) (r : Fin 32) (c : Fin 64) : (s.flipPixel r c).i = s.i := rfl
@[simp] theorem State.flipPixel_pc (s : State) (r : Fin 32) (c : Fin 64) : (s.flipPixel r c).pc = s.pc := rfl
@[simp] theorem State.flipPixel_stack (s : State) (r : Fin 32) (c : Fin 64) : (s.flipPixel r c).stack = s.stack := rfl
@[simp] theorem State.flipPixel_sp (s : State) (r : Fin 32) (c : Fin 64) : (s.flipPixel r c).sp = s.sp := rfl
@[simp] theorem State.flipPixel_dt (s : State) (r : Fin 32) (c : Fin 64) : (s.flipPixel r c).dt = s.dt := rfl
@[simp] theorem State.flipPixel_st (s : State) (r : Fin 32) (c : Fin 64) : (s.flipPixel r c).st = s.st := rfl
@[simp] theorem State.flipPixel_disp (s : State) (r : Fin 32) (c : Fin 64) : (s.flipPixel r c).disp = s.disp.set r (s.disp[r].set c (!s.disp[r][c])) := rfl
@[simp] theorem State.flipPixel_redraw (s : State) (r : Fin 32) (c : Fin 64) : (s.flipPixel r c).redraw = s.redraw := rfl
@[simp] theorem State.flipPixel_keys (s : State) (r : Fin 32) (c : Fin 64) : (s.flipPixel r c).keys = s.keys := rfl
@[simp] theorem State.flipPixel_mem (s : State) (r : Fin 32) (c : Fin 64) : (s.flipPixel r c).mem = s.mem := rfl
@[simp] theorem State.flipPixel_halted (s : State) (r : Fin 32) (c : Fin 64) : (s.flipPixel r c).halted = s.halted := rfl
@[simp] theorem State.flipPixel_faultCause (s : State) (r : Fin 32) (c : Fin 64) : (s.flipPixel r c).faultCause = s.faultCause := rfl
@[simp] theorem State.flipPixel_faultPc (s : State) (r : Fin 32) (c : Fin 64) : (s.flipPixel r c).faultPc = s.faultPc := rfl
@[simp] theorem State.flipPixel_faultOpcode (s : State) (r : Fin 32) (c : Fin 64) : (s.flipPixel r c).faultOpcode = s.faultOpcode := rfl
@[simp] theorem State.flipPixel_params (s : State) (r : Fin 32) (c : Fin 64) : (s.flipPixel r c).params = s.params := rfl
@[simp] theorem State.flipPixel_draws (s : State) (r : Fin 32) (c : Fin 64) : (s.flipPixel r c).draws = s.draws := rfl
@[simp] theorem State.flipPixel_reports (s : State) (r : Fin 32) (c : Fin 64) : (s.flipPixel r c).reports = s.reports := rfl
@[simp] theorem State.flipPixel_schedule (s : State) (r : Fin 32) (c : Fin 64) : (s.flipPixel r c).schedule = s.schedule := rfl
@[simp] theorem State.flipPixel_reg (s : State) (r : Fin 32) (c : Fin 64) (y : Reg) : (s.flipPixel r c).reg y = s.reg y := rfl
@[simp] theorem State.flipPixel_readByte (s : State) (r : Fin 32) (c : Fin 64) (z : Nat) : (s.flipPixel r c).readByte z = s.readByte z := rfl
@[simp] theorem State.flipPixel_key (s : State) (r : Fin 32) (c : Fin 64) (z : Key) : (s.flipPixel r c).key z = s.key z := rfl

/-! ### State.clearDisplay -/

@[simp] theorem State.clearDisplay_v (s : State) : s.clearDisplay.v = s.v := rfl
@[simp] theorem State.clearDisplay_i (s : State) : s.clearDisplay.i = s.i := rfl
@[simp] theorem State.clearDisplay_pc (s : State) : s.clearDisplay.pc = s.pc := rfl
@[simp] theorem State.clearDisplay_stack (s : State) : s.clearDisplay.stack = s.stack := rfl
@[simp] theorem State.clearDisplay_sp (s : State) : s.clearDisplay.sp = s.sp := rfl
@[simp] theorem State.clearDisplay_dt (s : State) : s.clearDisplay.dt = s.dt := rfl
@[simp] theorem State.clearDisplay_st (s : State) : s.clearDisplay.st = s.st := rfl
@[simp] theorem State.clearDisplay_disp (s : State) : s.clearDisplay.disp = blankDisplay := rfl
@[simp] theorem State.clearDisplay_redraw (s : State) : s.clearDisplay.redraw = s.redraw := rfl
@[simp] theorem State.clearDisplay_keys (s : State) : s.clearDisplay.keys = s.keys := rfl
@[simp] theorem State.clearDisplay_mem (s : State) : s.clearDisplay.mem = s.mem := rfl
@[simp] theorem State.clearDisplay_halted (s : State) : s.clearDisplay.halted = s.halted := rfl
@[simp] theorem State.clearDisplay_faultCause (s : State) : s.clearDisplay.faultCause = s.faultCause := rfl
@[simp] theorem State.clearDisplay_faultPc (s : State) : s.clearDisplay.faultPc = s.faultPc := rfl
@[simp] theorem State.clearDisplay_faultOpcode (s : State) : s.clearDisplay.faultOpcode = s.faultOpcode := rfl
@[simp] theorem State.clearDisplay_params (s : State) : s.clearDisplay.params = s.params := rfl
@[simp] theorem State.clearDisplay_draws (s : State) : s.clearDisplay.draws = s.draws := rfl
@[simp] theorem State.clearDisplay_reports (s : State) : s.clearDisplay.reports = s.reports := rfl
@[simp] theorem State.clearDisplay_schedule (s : State) : s.clearDisplay.schedule = s.schedule := rfl
@[simp] theorem State.clearDisplay_reg (s : State) (y : Reg) : s.clearDisplay.reg y = s.reg y := rfl
@[simp] theorem State.clearDisplay_readByte (s : State) (z : Nat) : s.clearDisplay.readByte z = s.readByte z := rfl
@[simp] theorem State.clearDisplay_key (s : State) (z : Key) : s.clearDisplay.key z = s.key z := rfl

/-! ### State.setRedraw -/

@[simp] theorem State.setRedraw_v (s : State) (b : Bool) : (s.setRedraw b).v = s.v := rfl
@[simp] theorem State.setRedraw_i (s : State) (b : Bool) : (s.setRedraw b).i = s.i := rfl
@[simp] theorem State.setRedraw_pc (s : State) (b : Bool) : (s.setRedraw b).pc = s.pc := rfl
@[simp] theorem State.setRedraw_stack (s : State) (b : Bool) : (s.setRedraw b).stack = s.stack := rfl
@[simp] theorem State.setRedraw_sp (s : State) (b : Bool) : (s.setRedraw b).sp = s.sp := rfl
@[simp] theorem State.setRedraw_dt (s : State) (b : Bool) : (s.setRedraw b).dt = s.dt := rfl
@[simp] theorem State.setRedraw_st (s : State) (b : Bool) : (s.setRedraw b).st = s.st := rfl
@[simp] theorem State.setRedraw_disp (s : State) (b : Bool) : (s.setRedraw b).disp = s.disp := rfl
@[simp] theorem State.setRedraw_redraw (s : State) (b : Bool) : (s.setRedraw b).redraw = b := rfl
@[simp] theorem State.setRedraw_keys (s : State) (b : Bool) : (s.setRedraw b).keys = s.keys := rfl
@[simp] theorem State.setRedraw_mem (s : State) (b : Bool) : (s.setRedraw b).mem = s.mem := rfl
@[simp] theorem State.setRedraw_halted (s : State) (b : Bool) : (s.setRedraw b).halted = s.halted := rfl
@[simp] theorem State.setRedraw_faultCause (s : State) (b : Bool) : (s.setRedraw b).faultCause = s.faultCause := rfl
@[simp] theorem State.setRedraw_faultPc (s : State) (b : Bool) : (s.setRedraw b).faultPc = s.faultPc := rfl
@[simp] theorem State.setRedraw_faultOpcode (s : State) (b : Bool) : (s.setRedraw b).faultOpcode = s.faultOpcode := rfl
@[simp] theorem State.setRedraw_params (s : State) (b : Bool) : (s.setRedraw b).params = s.params := rfl
@[simp] theorem State.setRedraw_draws (s : State) (b : Bool) : (s.setRedraw b).draws = s.draws := rfl
@[simp] theorem State.setRedraw_reports (s : State) (b : Bool) : (s.setRedraw b).reports = s.reports := rfl
@[simp] theorem State.setRedraw_schedule (s : State) (b : Bool) : (s.setRedraw b).schedule = s.schedule := rfl
@[simp] theorem State.setRedraw_reg (s : State) (b : Bool) (y : Reg) : (s.setRedraw b).reg y = s.reg y := rfl
@[simp] theorem State.setRedraw_readByte (s : State) (b : Bool) (z : Nat) : (s.setRedraw b).readByte z = s.readByte z := rfl
@[simp] theorem State.setRedraw_pixel (s : State) (b : Bool) (p : Fin 32) (q : Fin 64) : (s.setRedraw b).pixel p q = s.pixel p q := rfl
@[simp] theorem State.setRedraw_key (s : State) (b : Bool) (z : Key) : (s.setRedraw b).key z = s.key z := rfl

/-! ### State.writeKey -/

@[simp] theorem State.writeKey_v (s : State) (k : Key) (b : Bool) : (s.writeKey k b).v = s.v := rfl
@[simp] theorem State.writeKey_i (s : State) (k : Key) (b : Bool) : (s.writeKey k b).i = s.i := rfl
@[simp] theorem State.writeKey_pc (s : State) (k : Key) (b : Bool) : (s.writeKey k b).pc = s.pc := rfl
@[simp] theorem State.writeKey_stack (s : State) (k : Key) (b : Bool) : (s.writeKey k b).stack = s.stack := rfl
@[simp] theorem State.writeKey_sp (s : State) (k : Key) (b : Bool) : (s.writeKey k b).sp = s.sp := rfl
@[simp] theorem State.writeKey_dt (s : State) (k : Key) (b : Bool) : (s.writeKey k b).dt = s.dt := rfl
@[simp] theorem State.writeKey_st (s : State) (k : Key) (b : Bool) : (s.writeKey k b).st = s.st := rfl
@[simp] theorem State.writeKey_disp (s : State) (k : Key) (b : Bool) : (s.writeKey k b).disp = s.disp := rfl
@[simp] theorem State.writeKey_redraw (s : State) (k : Key) (b : Bool) : (s.writeKey k b).redraw = s.redraw := rfl
@[simp] theorem State.writeKey_keys (s : State) (k : Key) (b : Bool) : (s.writeKey k b).keys = s.keys.set k b := rfl
@[simp] theorem State.writeKey_mem (s : State) (k : Key) (b : Bool) : (s.writeKey k b).mem = s.mem := rfl
@[simp] theorem State.writeKey_halted (s : State) (k : Key) (b : Bool) : (s.writeKey k b).halted = s.halted := rfl
@[simp] theorem State.writeKey_faultCause (s : State) (k : Key) (b : Bool) : (s.writeKey k b).faultCause = s.faultCause := rfl
@[simp] theorem State.writeKey_faultPc (s : State) (k : Key) (b : Bool) : (s.writeKey k b).faultPc = s.faultPc := rfl
@[simp] theorem State.writeKey_faultOpcode (s : State) (k : Key) (b : Bool) : (s.writeKey k b).faultOpcode = s.faultOpcode := rfl
@[simp] theorem State.writeKey_params (s : State) (k : Key) (b : Bool) : (s.writeKey k b).params = s.params := rfl
@[simp] theorem State.writeKey_draws (s : State) (k : Key) (b : Bool) : (s.writeKey k b).draws = s.draws := rfl
@[simp] theorem State.writeKey_reports (s : State) (k : Key) (b : Bool) : (s.writeKey k b).reports = s.reports := rfl
@[simp] theorem State.writeKey_schedule (s : State) (k : Key) (b : Bool) : (s.writeKey k b).schedule = s.schedule := rfl
@[simp] theorem State.writeKey_reg (s : State) (k : Key) (b : Bool) (y : Reg) : (s.writeKey k b).reg y = s.reg y := rfl
@[simp] theorem State.writeKey_readByte (s : State) (k : Key) (b : Bool) (z : Nat) : (s.writeKey k b).readByte z = s.readByte z := rfl
@[simp] theorem State.writeKey_pixel (s : State) (k : Key) (b : Bool) (p : Fin 32) (q : Fin 64) : (s.writeKey k b).pixel p q = s.pixel p q := rfl

/-! ### State.countDraw -/

@[simp] theorem State.countDraw_v (s : State) : s.countDraw.v = s.v := rfl
@[simp] theorem State.countDraw_i (s : State) : s.countDraw.i = s.i := rfl
@[simp] theorem State.countDraw_pc (s : State) : s.countDraw.pc = s.pc := rfl
@[simp] theorem State.countDraw_stack (s : State) : s.countDraw.stack = s.stack := rfl
@[simp] theorem State.countDraw_sp (s : State) : s.countDraw.sp = s.sp := rfl
@[simp] theorem State.countDraw_dt (s : State) : s.countDraw.dt = s.dt := rfl
@[simp] theorem State.countDraw_st (s : State) : s.countDraw.st = s.st := rfl
@[simp] theorem State.countDraw_disp (s : State) : s.countDraw.disp = s.disp := rfl
@[simp] theorem State.countDraw_redraw (s : State) : s.countDraw.redraw = s.redraw := rfl
@[simp] theorem State.countDraw_keys (s : State) : s.countDraw.keys = s.keys := rfl
@[simp] theorem State.countDraw_mem (s : State) : s.countDraw.mem = s.mem := rfl
@[simp] theorem State.countDraw_halted (s : State) : s.countDraw.halted = s.halted := rfl
@[simp] theorem State.countDraw_faultCause (s : State) : s.countDraw.faultCause = s.faultCause := rfl
@[simp] theorem State.countDraw_faultPc (s : State) : s.countDraw.faultPc = s.faultPc := rfl
@[simp] theorem State.countDraw_faultOpcode (s : State) : s.countDraw.faultOpcode = s.faultOpcode := rfl
@[simp] theorem State.countDraw_params (s : State) : s.countDraw.params = s.params := rfl
@[simp] theorem State.countDraw_draws (s : State) : s.countDraw.draws = s.draws + 1 := rfl
@[simp] theorem State.countDraw_reports (s : State) : s.countDraw.reports = s.reports := rfl
@[simp] theorem State.countDraw_schedule (s : State) : s.countDraw.schedule = s.schedule := rfl
@[simp] theorem State.countDraw_reg (s : State) (y : Reg) : s.countDraw.reg y = s.reg y := rfl
@[simp] theorem State.countDraw_readByte (s : State) (z : Nat) : s.countDraw.readByte z = s.readByte z := rfl
@[simp] theorem State.countDraw_pixel (s : State) (p : Fin 32) (q : Fin 64) : s.countDraw.pixel p q = s.pixel p q := rfl
@[simp] theorem State.countDraw_key (s : State) (z : Key) : s.countDraw.key z = s.key z := rfl

/-! ### State.report -/

@[simp] theorem State.report_v (s : State) (op : Word) : (s.report op).v = s.v := rfl
@[simp] theorem State.report_i (s : State) (op : Word) : (s.report op).i = s.i := rfl
@[simp] theorem State.report_pc (s : State) (op : Word) : (s.report op).pc = s.pc := rfl
@[simp] theorem State.report_stack (s : State) (op : Word) : (s.report op).stack = s.stack := rfl
@[simp] theorem State.report_sp (s : State) (op : Word) : (s.report op).sp = s.sp := rfl
@[simp] theorem State.report_dt (s : State) (op : Word) : (s.report op).dt = s.dt := rfl
@[simp] theorem State.report_st (s : State) (op : Word) : (s.report op).st = s.st := rfl
@[simp] theorem State.report_disp (s : State) (op : Word) : (s.report op).disp = s.disp := rfl
@[simp] theorem State.report_redraw (s : State) (op : Word) : (s.report op).redraw = s.redraw := rfl
@[simp] theorem State.report_keys (s : State) (op : Word) : (s.report op).keys = s.keys := rfl
@[simp] theorem State.report_mem (s : State) (op : Word) : (s.report op).mem = s.mem := rfl
@[simp] theorem State.report_halted (s : State) (op : Word) : (s.report op).halted = s.halted := rfl
@[simp] theorem State.report_faultCause (s : State) (op : Word) : (s.report op).faultCause = s.faultCause := rfl
@[simp] theorem State.report_faultPc (s : State) (op : Word) : (s.report op).faultPc = s.faultPc := rfl
@[simp] theorem State.report_faultOpcode (s : State) (op : Word) : (s.report op).faultOpcode = s.faultOpcode := rfl
@[simp] theorem State.report_params (s : State) (op : Word) : (s.report op).params = s.params := rfl
@[simp] theorem State.report_draws (s : State) (op : Word) : (s.report op).draws = s.draws := rfl
@[simp] theorem State.report_reports (s : State) (op : Word) : (s.report op).reports = s.reports ++ [{ pc := s.pc, opcode := op }] := rfl
@[simp] theorem State.report_schedule (s : State) (op : Word) : (s.report op).schedule = s.schedule := rfl
@[simp] theorem State.report_reg (s : State) (op : Word) (y : Reg) : (s.report op).reg y = s.reg y := rfl
@[simp] theorem State.report_readByte (s : State) (op : Word) (z : Nat) : (s.report op).readByte z = s.readByte z := rfl
@[simp] theorem State.report_pixel (s : State) (op : Word) (p : Fin 32) (q : Fin 64) : (s.report op).pixel p q = s.pixel p q := rfl
@[simp] theorem State.report_key (s : State) (op : Word) (z : Key) : (s.report op).key z = s.key z := rfl

/-! ### State.raise -/

@[simp] theorem State.raise_v (s : State) (c : FaultCause) (op : Word) : (s.raise c op).v = s.v := rfl
@[simp] theorem State.raise_i (s : State) (c : FaultCause) (op : Word) : (s.raise c op).i = s.i := rfl
@[simp] theorem State.raise_pc (s : State) (c : FaultCause) (op : Word) : (s.raise c op).pc = s.pc := rfl
@[simp] theorem State.raise_stack (s : State) (c : FaultCause) (op : Word) : (s.raise c op).stack = s.stack := rfl
@[simp] theorem State.raise_sp (s : State) (c : FaultCause) (op : Word) : (s.raise c op).sp = s.sp := rfl
@[simp] theorem State.raise_dt (s : State) (c : FaultCause) (op : Word) : (s.raise c op).dt = s.dt := rfl
@[simp] theorem State.raise_st (s : State) (c : FaultCause) (op : Word) : (s.raise c op).st = s.st := rfl
@[simp] theorem State.raise_disp (s : State) (c : FaultCause) (op : Word) : (s.raise c op).disp = s.disp := rfl
@[simp] theorem State.raise_redraw (s : State) (c : FaultCause) (op : Word) : (s.raise c op).redraw = s.redraw := rfl
@[simp] theorem State.raise_keys (s : State) (c : FaultCause) (op : Word) : (s.raise c op).keys = s.keys := rfl
@[simp] theorem State.raise_mem (s : State) (c : FaultCause) (op : Word) : (s.raise c op).mem = s.mem := rfl
@[simp] theorem State.raise_halted (s : State) (c : FaultCause) (op : Word) : (s.raise c op).halted = true := rfl
@[simp] theorem State.raise_faultCause (s : State) (c : FaultCause) (op : Word) : (s.raise c op).faultCause = c := rfl
@[simp] theorem State.raise_faultPc (s : State) (c : FaultCause) (op : Word) : (s.raise c op).faultPc = s.pc := rfl
@[simp] theorem State.raise_faultOpcode (s : State) (c : FaultCause) (op : Word) : (s.raise c op).faultOpcode = op := rfl
@[simp] theorem State.raise_params (s : State) (c : FaultCause) (op : Word) : (s.raise c op).params = s.params := rfl
@[simp] theorem State.raise_draws (s : State) (c : FaultCause) (op : Word) : (s.raise c op).draws = s.draws := rfl
@[simp] theorem State.raise_reports (s : State) (c : FaultCause) (op : Word) : (s.raise c op).reports = s.reports := rfl
@[simp] theorem State.raise_schedule (s : State) (c : FaultCause) (op : Word) : (s.raise c op).schedule = s.schedule := rfl
@[simp] theorem State.raise_reg (s : State) (c : FaultCause) (op : Word) (y : Reg) : (s.raise c op).reg y = s.reg y := rfl
@[simp] theorem State.raise_readByte (s : State) (c : FaultCause) (op : Word) (z : Nat) : (s.raise c op).readByte z = s.readByte z := rfl
@[simp] theorem State.raise_pixel (s : State) (c : FaultCause) (op : Word) (p : Fin 32) (q : Fin 64) : (s.raise c op).pixel p q = s.pixel p q := rfl
@[simp] theorem State.raise_key (s : State) (c : FaultCause) (op : Word) (z : Key) : (s.raise c op).key z = s.key z := rfl

/-! ### State.setSchedule -/

@[simp] theorem State.setSchedule_v (s : State) (rs : List Transaction) : (s.setSchedule rs).v = s.v := rfl
@[simp] theorem State.setSchedule_i (s : State) (rs : List Transaction) : (s.setSchedule rs).i = s.i := rfl
@[simp] theorem State.setSchedule_pc (s : State) (rs : List Transaction) : (s.setSchedule rs).pc = s.pc := rfl
@[simp] theorem State.setSchedule_stack (s : State) (rs : List Transaction) : (s.setSchedule rs).stack = s.stack := rfl
@[simp] theorem State.setSchedule_sp (s : State) (rs : List Transaction) : (s.setSchedule rs).sp = s.sp := rfl
@[simp] theorem State.setSchedule_dt (s : State) (rs : List Transaction) : (s.setSchedule rs).dt = s.dt := rfl
@[simp] theorem State.setSchedule_st (s : State) (rs : List Transaction) : (s.setSchedule rs).st = s.st := rfl
@[simp] theorem State.setSchedule_disp (s : State) (rs : List Transaction) : (s.setSchedule rs).disp = s.disp := rfl
@[simp] theorem State.setSchedule_redraw (s : State) (rs : List Transaction) : (s.setSchedule rs).redraw = s.redraw := rfl
@[simp] theorem State.setSchedule_keys (s : State) (rs : List Transaction) : (s.setSchedule rs).keys = s.keys := rfl
@[simp] theorem State.setSchedule_mem (s : State) (rs : List Transaction) : (s.setSchedule rs).mem = s.mem := rfl
@[simp] theorem State.setSchedule_halted (s : State) (rs : List Transaction) : (s.setSchedule rs).halted = s.halted := rfl
@[simp] theorem State.setSchedule_faultCause (s : State) (rs : List Transaction) : (s.setSchedule rs).faultCause = s.faultCause := rfl
@[simp] theorem State.setSchedule_faultPc (s : State) (rs : List Transaction) : (s.setSchedule rs).faultPc = s.faultPc := rfl
@[simp] theorem State.setSchedule_faultOpcode (s : State) (rs : List Transaction) : (s.setSchedule rs).faultOpcode = s.faultOpcode := rfl
@[simp] theorem State.setSchedule_params (s : State) (rs : List Transaction) : (s.setSchedule rs).params = s.params := rfl
@[simp] theorem State.setSchedule_draws (s : State) (rs : List Transaction) : (s.setSchedule rs).draws = s.draws := rfl
@[simp] theorem State.setSchedule_reports (s : State) (rs : List Transaction) : (s.setSchedule rs).reports = s.reports := rfl
@[simp] theorem State.setSchedule_schedule (s : State) (rs : List Transaction) : (s.setSchedule rs).schedule = rs := rfl
@[simp] theorem State.setSchedule_reg (s : State) (rs : List Transaction) (y : Reg) : (s.setSchedule rs).reg y = s.reg y := rfl
@[simp] theorem State.setSchedule_readByte (s : State) (rs : List Transaction) (z : Nat) : (s.setSchedule rs).readByte z = s.readByte z := rfl
@[simp] theorem State.setSchedule_pixel (s : State) (rs : List Transaction) (p : Fin 32) (q : Fin 64) : (s.setSchedule rs).pixel p q = s.pixel p q := rfl
@[simp] theorem State.setSchedule_key (s : State) (rs : List Transaction) (z : Key) : (s.setSchedule rs).key z = s.key z := rfl

/-! ### The derived updates -/

@[simp] theorem State.seq_eq (s : State) : s.seq = s.setPc (s.pc + 2) := rfl
@[simp] theorem State.skipIf_eq (s : State) (c : Bool) : s.skipIf c = s.setPc (if c then s.pc + 4 else s.pc + 2) := rfl
@[simp] theorem State.hold_eq (s : State) : s.hold = s := rfl
@[simp] theorem State.setFlag_eq (s : State) (b : Bool) : s.setFlag b = s.setReg vf (flagByte b) := rfl
@[simp] theorem takeBoundsError_eq (c : FaultCause) (i : Instr) (s : State) :
    takeBoundsError c i s = .next (s.raise c (encode i)) := rfl
@[simp] theorem writeResult_eq (x : Reg) (b : Byte) (s : State) : writeResult x b s = .next (s.setReg x b).seq := rfl
@[simp] theorem writeFlagThenResult_eq (f : Bool) (x : Reg) (b : Byte) (s : State) :
    writeFlagThenResult f x b s = .next ((s.setFlag f).setReg x b).seq := rfl
@[simp] theorem writeFlagThenUpdate_eq (f : Bool) (x : Reg) (g : Byte → Byte) (s : State) :
    writeFlagThenUpdate f x g s = .next ((s.setFlag f).setReg x (g ((s.setFlag f).reg x))).seq := rfl
@[simp] theorem storeAtIndex_eq (ws : List Byte) (s : State) :
    storeAtIndex ws s = (s.writeBytes s.i.toNat ws).seq := rfl
@[simp] theorem tick_eq (s : State) : tick s = (s.setDelay (countDown s.dt)).setSound (countDown s.st) := rfl
@[simp] theorem State.setSchedule_self (s : State) : s.setSchedule s.schedule = s := rfl

end Sys2Proof.Machine
end

