-- ==== Sys2Proof/Laws/Agents.lean ====
section
/-! SUPPORT. What a step can do, said once: which transaction it serves, what each transaction leaves, and when the
machine is stuck (spec/10_state.md R53, spec/60_exceptions.md R205). -/

namespace Sys2Proof.Machine

/-! ### Which transaction is next -/

theorem nextTransaction_running (r : Transaction) (rs : List Transaction) :
    nextTransaction false (r :: rs) = some (r, rs) := by cases r <;> rfl

theorem nextTransaction_idle : nextTransaction false [] = some (.step, []) := rfl

/-- While halted, a served request is one of the host's. -/
theorem nextTransaction_halted {rs rest : List Transaction} {r : Transaction}
    (h : nextTransaction true rs = some (r, rest)) : r ≠ .step ∧ r ≠ .tick := by
  induction rs with
  | nil => simp [nextTransaction] at h
  | cons q rs ih =>
    unfold nextTransaction at h
    split at h
    · next he => cases h; constructor <;> rintro rfl <;> simp [Transaction.enabled] at he
    · exact ih h

/-- Requests of steps and ticks have no transition while halted: the next request is sought behind them. -/
theorem nextTransaction_skip {waiting rs : List Transaction} (h : ∀ r ∈ waiting, r = .step ∨ r = .tick) :
    nextTransaction true (waiting ++ rs) = nextTransaction true rs := by
  induction waiting with
  | nil => rfl
  | cons q w ih =>
    have hq : q.enabled true = false := by rcases h q List.mem_cons_self with rfl | rfl <;> rfl
    rw [List.cons_append, nextTransaction, hq]
    simpa using ih fun r hr => h r (List.mem_cons_of_mem _ hr)

/-! ### One step -/

/-- A running machine serves its first request, and with none requested a step. -/
theorem step_running {s : State} {r : Transaction} {rest : List Transaction} (hh : s.halted = false)
    (hs : s.schedule = r :: rest ∨ (s.schedule = [] ∧ r = .step ∧ rest = [])) :
    step s = serve r (s.setSchedule rest) := by
  rcases hs with hs | ⟨hs, rfl, rfl⟩ <;> simp [step, serveNext, hh, hs, nextTransaction_running, nextTransaction_idle]

/-- Every step serves one transaction, or the machine is halted and stuck. -/
theorem step_cases (s : State) :
    (∃ r rest, nextTransaction s.halted s.schedule = some (r, rest) ∧ step s = serve r (s.setSchedule rest)) ∨
    (s.halted = true ∧ nextTransaction s.halted s.schedule = none ∧ step s = .fault (.halted s.faultCause)) := by
  cases h : nextTransaction s.halted s.schedule with
  | some p =>
    obtain ⟨r, rest⟩ := p
    exact .inl ⟨r, rest, rfl, by simp [step, serveNext, h]⟩
  | none =>
    refine .inr ⟨?_, rfl, by simp [step, serveNext, h]⟩
    cases hh : s.halted with
    | true => rfl
    | false =>
      cases hs : s.schedule with
      | nil => simp [hh, hs, nextTransaction] at h
      | cons r rs => simp [hh, hs, nextTransaction_running] at h

/-- What serving a transaction answers, once for each kind. -/
theorem serve_cases {r : Transaction} {s t : State} (h : serve r s = .next t) :
    (r = .step ∧ s.fetchable = true ∧ exec (decode s.fetchWord) s = .next t) ∨
    (r = .step ∧ s.fetchable = false ∧ t = s.raise .fetchBounds 0) ∨
    (r = .tick ∧ t = tick s) ∨
    (∃ k b, r = .setKey k b ∧ t = s.writeKey k b) ∨
    (r = .clearRedraw ∧ t = s.setRedraw false) ∨
    (∃ b, r = .reset b ∧ b.image.length ≤ maxImage ∧ t = bootState b s) := by
  cases r with
  | step =>
    simp only [serve, instructionStep] at h
    split at h
    · next hf => exact .inl ⟨rfl, hf, h⟩
    · next hf => cases h; exact .inr (.inl ⟨rfl, by simpa using hf, rfl⟩)
  | tick => cases h; exact .inr (.inr (.inl ⟨rfl, rfl⟩))
  | setKey k b => cases h; exact .inr (.inr (.inr (.inl ⟨k, b, rfl, rfl⟩)))
  | clearRedraw => cases h; exact .inr (.inr (.inr (.inr (.inl ⟨rfl, rfl⟩))))
  | reset b =>
    simp only [serve, resetWith] at h
    split at h
    · next hl => cases h; exact .inr (.inr (.inr (.inr (.inr ⟨b, rfl, hl, rfl⟩))))
    · cases h

theorem fetchable_iff (s : State) : s.fetchable = true ↔ s.pc.toNat ≤ 4094 := by simp [State.fetchable]

@[simp] theorem State.setSchedule_fetchWord (s : State) (rs : List Transaction) :
    (s.setSchedule rs).fetchWord = s.fetchWord := rfl
@[simp] theorem State.setSchedule_fetchable (s : State) (rs : List Transaction) :
    (s.setSchedule rs).fetchable = s.fetchable := rfl

/-! ### The host's capture (R222) -/

@[simp] theorem State.captureDisplay_snd (s : State) : s.captureDisplay.2 = s.setRedraw false := rfl

/-! ### The timers -/

theorem toNat_countDown (b : Byte) : (countDown b).toNat = b.toNat - 1 := by
  unfold countDown
  split
  · next h => simp [h]
  · next h => have : b.toNat ≠ 0 := fun e => h (BitVec.eq_of_toNat_eq (by simpa using e)); bv_omega

end Sys2Proof.Machine
end

