-- ==== Sys2Proof/Laws/Decode.lean ====
section
/-! SUPPORT. The fields of a word and the words made from fields, as numbers; the fields of an encoded word, and a word
as its fields (spec/30_encoding.md R81, R83). -/

namespace Sys2Proof

/-! ### Fields and words as numbers -/

theorem toNat_opClass (op : Word) : (opClass op).toNat = op.toNat / 4096 := by
  have := op.isLt; simp only [opClass, BitVec.extractLsb'_toNat, Nat.shiftRight_eq_div_pow]; omega
theorem toNat_fieldX (op : Word) : (fieldX op).toNat = op.toNat / 256 % 16 := by
  simp only [fieldX, BitVec.extractLsb'_toNat, Nat.shiftRight_eq_div_pow]
theorem toNat_fieldY (op : Word) : (fieldY op).toNat = op.toNat / 16 % 16 := by
  simp only [fieldY, BitVec.extractLsb'_toNat, Nat.shiftRight_eq_div_pow]
theorem toNat_fieldN (op : Word) : (fieldN op).toNat = op.toNat % 16 := by
  simp only [fieldN, BitVec.extractLsb'_toNat, Nat.shiftRight_eq_div_pow]; omega
theorem toNat_fieldKK (op : Word) : (fieldKK op).toNat = op.toNat % 256 := by
  simp only [fieldKK, BitVec.extractLsb'_toNat, Nat.shiftRight_eq_div_pow]; omega
theorem toNat_fieldNNN (op : Word) : (fieldNNN op).toNat = op.toNat % 4096 := by
  simp only [fieldNNN, BitVec.extractLsb'_toNat, Nat.shiftRight_eq_div_pow]; omega

theorem toNat_append {m n : Nat} (a : BitVec m) (b : BitVec n) : (a ++ b).toNat = a.toNat * 2 ^ n + b.toNat := by
  rw [BitVec.toNat_append, ← Nat.shiftLeft_add_eq_or_of_lt b.isLt, Nat.shiftLeft_eq]

theorem toNat_wordNNN (c : BitVec 4) (nnn : Addr12) : (wordNNN c nnn).toNat = c.toNat * 4096 + nnn.toNat :=
  toNat_append c nnn
theorem toNat_wordXKK (c : BitVec 4) (x : Reg) (kk : Byte) :
    (wordXKK c x kk).toNat = c.toNat * 4096 + (x.toNat * 256 + kk.toNat) :=
  (toNat_append c (x ++ kk)).trans (by rw [toNat_append]; rfl)
theorem toNat_wordXYN (c : BitVec 4) (x y : Reg) (n : BitVec 4) :
    (wordXYN c x y n).toNat = c.toNat * 4096 + (x.toNat * 256 + (y.toNat * 16 + n.toNat)) :=
  (toNat_wordXKK c x (y ++ n)).trans (by rw [toNat_append]; rfl)
/-- The big-endian word in numbers (R65, R102). -/
theorem toNat_wordOfBytes (hi lo : Byte) : (wordOfBytes hi lo).toNat = hi.toNat * 256 + lo.toNat := toNat_append hi lo

/-! ### The fields of 0x_NNN, 0x_XKK and 0x_XYN -/

section
variable (c : BitVec 4) (x y : Reg) (n : BitVec 4) (kk : Byte) (nnn : Addr12)

@[simp] theorem opClass_wordNNN : opClass (wordNNN c nnn) = c := by
  apply BitVec.eq_of_toNat_eq; rw [toNat_opClass, toNat_wordNNN]; omega
@[simp] theorem fieldNNN_wordNNN : fieldNNN (wordNNN c nnn) = nnn := by
  apply BitVec.eq_of_toNat_eq; rw [toNat_fieldNNN, toNat_wordNNN]; omega
@[simp] theorem opClass_wordXKK : opClass (wordXKK c x kk) = c := by
  apply BitVec.eq_of_toNat_eq; rw [toNat_opClass, toNat_wordXKK]; omega
@[simp] theorem fieldX_wordXKK : fieldX (wordXKK c x kk) = x := by
  apply BitVec.eq_of_toNat_eq; rw [toNat_fieldX, toNat_wordXKK]; omega
@[simp] theorem fieldKK_wordXKK : fieldKK (wordXKK c x kk) = kk := by
  apply BitVec.eq_of_toNat_eq; rw [toNat_fieldKK, toNat_wordXKK]; omega
@[simp] theorem opClass_wordXYN : opClass (wordXYN c x y n) = c := by
  apply BitVec.eq_of_toNat_eq; rw [toNat_opClass, toNat_wordXYN]; omega
@[simp] theorem fieldX_wordXYN : fieldX (wordXYN c x y n) = x := by
  apply BitVec.eq_of_toNat_eq; rw [toNat_fieldX, toNat_wordXYN]; omega
@[simp] theorem fieldY_wordXYN : fieldY (wordXYN c x y n) = y := by
  apply BitVec.eq_of_toNat_eq; rw [toNat_fieldY, toNat_wordXYN]; omega
@[simp] theorem fieldN_wordXYN : fieldN (wordXYN c x y n) = n := by
  apply BitVec.eq_of_toNat_eq; rw [toNat_fieldN, toNat_wordXYN]; omega

end

/-! ### A word from its fields -/

theorem wordNNN_fields (op : Word) : wordNNN (opClass op) (fieldNNN op) = op := by
  apply BitVec.eq_of_toNat_eq; rw [toNat_wordNNN, toNat_opClass, toNat_fieldNNN]; omega
theorem wordXKK_fields (op : Word) : wordXKK (opClass op) (fieldX op) (fieldKK op) = op := by
  apply BitVec.eq_of_toNat_eq; rw [toNat_wordXKK, toNat_opClass, toNat_fieldX, toNat_fieldKK]; omega
theorem wordXYN_fields (op : Word) : wordXYN (opClass op) (fieldX op) (fieldY op) (fieldN op) = op := by
  apply BitVec.eq_of_toNat_eq
  rw [toNat_wordXYN, toNat_opClass, toNat_fieldX, toNat_fieldY, toNat_fieldN]; omega

/-! ### Bytes -/

/-- The bytes of a word are read back as the word (R65). -/
theorem wordOfBytes_bytesOfWord (op : Word) : wordOfBytes (op.extractLsb' 8 8) (op.extractLsb' 0 8) = op := by
  have := op.isLt
  apply BitVec.eq_of_toNat_eq
  rw [toNat_wordOfBytes]
  simp only [BitVec.extractLsb'_toNat, Nat.shiftRight_eq_div_pow]; omega

theorem decodeBytes_bytesOfWord (op : Word) (rest : List Byte) :
    decodeBytes (bytesOfWord op ++ rest) = .ok (decode op, rest) := by
  show Except.ok (decode (wordOfBytes (op.extractLsb' 8 8) (op.extractLsb' 0 8)), rest) = _
  rw [wordOfBytes_bytesOfWord]

end Sys2Proof
end

