-- ==== Sys2Proof/Laws/Registers.lean ====
section
/-! SUPPORT. What reading a register, a pixel, a key or a byte gives after each shared operation
(spec/10_state.md, spec/20_memory.md). -/

namespace Sys2Proof.Machine

theorem Reg.toNat_inj {x y : Reg} : x.toNat = y.toNat ↔ x = y := BitVec.toNat_inj

/-! ### General registers -/

theorem State.reg_setReg (s : State) (x y : Reg) (b : Byte) :
    (s.setReg x b).reg y = if y = x then b else s.reg y := by
  unfold State.reg State.setReg
  simp only [Vector.getElem_set, Reg.toNat_inj, eq_comm]

@[simp] theorem State.reg_setReg_same (s : State) (x : Reg) (b : Byte) : (s.setReg x b).reg x = b := by
  simp [State.reg_setReg]

theorem State.reg_setReg_other (s : State) {x y : Reg} (b : Byte) (h : y ≠ x) : (s.setReg x b).reg y = s.reg y := by
  simp [State.reg_setReg, h]

/-- Registers that all read alike are the same register file. -/
theorem State.v_ext {s t : State} (h : ∀ r, s.reg r = t.reg r) : s.v = t.v := by
  apply Vector.ext
  intro j hj
  simpa [State.reg, Nat.mod_eq_of_lt hj] using h (BitVec.ofNat 4 j)

/-! ### Loading registers from memory (R165) -/

theorem State.loadRegs_succ (s : State) (k : Nat) :
    s.loadRegs (k + 1) = (s.loadRegs k).setReg (BitVec.ofNat 4 k) (s.indexByte k) := by
  simp [State.loadRegs, List.range_succ]

/-- V[0..count − 1] hold the bytes from I on, and every other register is as before. -/
theorem State.reg_loadRegs (s : State) {count : Nat} (hc : count ≤ 16) (r : Reg) :
    (s.loadRegs count).reg r = if r.toNat < count then s.indexByte r.toNat else s.reg r := by
  induction count with
  | zero => simp [State.loadRegs]
  | succ k ih =>
    rw [State.loadRegs_succ, State.reg_setReg, ih (by omega)]
    by_cases h : r = BitVec.ofNat 4 k
    · subst h
      have : (BitVec.ofNat 4 k).toNat = k := by rw [BitVec.toNat_ofNat]; omega
      simp [this]
    · have : r.toNat ≠ k := by
        intro hk; apply h; apply BitVec.eq_of_toNat_eq; rw [BitVec.toNat_ofNat, hk]; omega
      rw [if_neg h]
      by_cases hlt : r.toNat < k
      · rw [if_pos hlt, if_pos (by omega)]
      · rw [if_neg hlt, if_neg (by omega)]

/-- Loading registers changes the register file alone. -/
theorem State.loadRegs_eq (s : State) (count : Nat) : s.loadRegs count = { s with v := (s.loadRegs count).v } := by
  induction count with
  | zero => rfl
  | succ k ih => rw [State.loadRegs_succ]; conv_lhs => rw [ih]
                 rfl

theorem State.regsUpTo_length (s : State) (x : Reg) : (s.regsUpTo x).length = x.toNat + 1 := by
  simp [State.regsUpTo, regCount]

theorem State.regsUpTo_getElem (s : State) (x : Reg) (j : Nat) (h : j < (s.regsUpTo x).length) :
    (s.regsUpTo x)[j] = s.reg (BitVec.ofNat 4 j) := by
  simp [State.regsUpTo]

/-! ### Memory -/

theorem State.readByte_writeByte (s : State) (a b : Nat) (w : Byte) :
    (s.writeByte a w).readByte b = if b = a then w else s.readByte b := Memory.read_write

theorem State.readByte_writeBytes (s : State) (a b : Nat) (ws : List Byte) :
    (s.writeBytes a ws).readByte b =
      if h : a ≤ b ∧ b < a + ws.length then ws[b - a]'(by omega) else s.readByte b := Memory.read_writeBytes ws

theorem checkMem_iff (base len : Nat) : checkMem base len = true ↔ len = 0 ∨ base + len ≤ 4096 := by
  simp only [checkMem, Bool.or_eq_true, beq_iff_eq, decide_eq_true_eq]; rfl

/-! ### Display -/

theorem State.pixel_flipPixel (s : State) (r p : Fin 32) (c q : Fin 64) :
    (s.flipPixel r c).pixel p q = if p = r ∧ q = c then !s.pixel p q else s.pixel p q := by
  unfold State.pixel State.flipPixel
  by_cases hp : p = r
  · subst hp
    by_cases hq : q = c
    · subst hq; simp
    · have : c.val ≠ q.val := fun h => hq (Fin.ext h.symm)
      simp [hq, this]
  · have : r.val ≠ p.val := fun h => hp (Fin.ext h.symm)
    simp [hp, this]

theorem State.pixel_clearDisplay (s : State) (p : Fin 32) (q : Fin 64) : s.clearDisplay.pixel p q = false := by
  simp [State.pixel, blankDisplay]

/-- Displays that all read alike are the same data. -/
theorem State.disp_ext {s t : State} (h : ∀ p q, s.pixel p q = t.pixel p q) : s.disp = t.disp := by
  apply Vector.ext
  intro p hp
  apply Vector.ext
  intro q hq
  exact h ⟨p, hp⟩ ⟨q, hq⟩

/-! ### Keys -/

theorem State.key_writeKey (s : State) (k j : Key) (b : Bool) :
    (s.writeKey k b).key j = if j = k then b else s.key j := by
  unfold State.key State.writeKey
  by_cases h : j = k
  · subst h; simp
  · have : k.val ≠ j.val := fun e => h (Fin.ext e.symm)
    simp [h, this]

theorem State.mem_heldKeys (s : State) (k : Key) : k ∈ s.heldKeys ↔ s.key k = true := by
  simp [State.heldKeys]

/-- FX0A_SELECT chooses a held key, and one is chosen exactly when one is held. -/
theorem selectKey_mem {choice : List (List Key × Key)} {held : List Key} {k : Key} (h : selectKey choice held = some k) :
    k ∈ held := by
  unfold selectKey at h
  split at h
  · split at h
    · next hc => simp at h; subst h; simpa using hc
    · exact List.mem_of_head? h
  · exact List.mem_of_head? h

theorem selectKey_none_iff (choice : List (List Key × Key)) (held : List Key) :
    selectKey choice held = none ↔ held = [] := by
  unfold selectKey
  split
  · split
    · next hc => simp; intro h; simp [h] at hc
    · simp [List.head?_eq_none_iff]
  · simp [List.head?_eq_none_iff]

/-- The key a register names is its value, where that is at most 15. -/
theorem State.keyOperand_some {s : State} {x : Reg} {k : Key} :
    s.keyOperand x = some k ↔ (s.reg x).toNat = k.val := by
  unfold State.keyOperand
  split
  · next h => simp [Fin.ext_iff]
  · next h => simp; intro e; have := k.isLt; omega

theorem State.keyOperand_none {s : State} {x : Reg} : s.keyOperand x = none ↔ 15 < (s.reg x).toNat := by
  unfold State.keyOperand
  split <;> simp <;> omega

end Sys2Proof.Machine
end

