-- ==== Sys2Proof/Laws/Display.lean ====
section
/-! SUPPORT. What drawing can change: VF and the display, and nothing else (spec/45_display.md R171). -/

namespace Sys2Proof.Machine

theorem State.setReg_self (s : State) (x : Reg) : s.setReg x (s.reg x) = s := by
  simp [State.setReg, State.reg]

theorem State.setReg_setReg (s : State) (x : Reg) (a b : Byte) : (s.setReg x a).setReg x b = s.setReg x b := by
  simp [State.setReg]

/-- `t` is `s` but for VF and the display. -/
def DrawnFrom (s t : State) : Prop := ∃ f d, t = { s.setReg vf f with disp := d }

theorem DrawnFrom.refl (s : State) : DrawnFrom s s := ⟨s.reg vf, s.disp, by rw [State.setReg_self]⟩

theorem DrawnFrom.trans {s t u : State} (h : DrawnFrom s t) (h' : DrawnFrom t u) : DrawnFrom s u := by
  obtain ⟨f, d, rfl⟩ := h
  obtain ⟨g, e, rfl⟩ := h'
  refine ⟨g, e, ?_⟩
  simp [State.setReg]

theorem plot_drawnFrom (r : Fin 32) (c : Fin 64) (s : State) : DrawnFrom s (plot r c s) := by
  unfold plot
  split
  · exact ⟨1, _, rfl⟩
  · refine ⟨s.reg vf, (s.flipPixel r c).disp, ?_⟩
    rw [State.setReg_self]
    rfl

theorem drawColumn_drawnFrom (base : State → Byte × Byte) (row : Nat) (bits : Byte) (s : State) (col : Nat) :
    DrawnFrom s (drawColumn base row bits s col) := by
  unfold drawColumn
  split
  · exact plot_drawnFrom _ _ s
  · exact .refl s

/-- A fold of drawing operations is one. -/
theorem DrawnFrom.foldl {α : Type} {f : State → α → State} (hf : ∀ s a, DrawnFrom s (f s a)) (l : List α) (s : State) :
    DrawnFrom s (l.foldl f s) := by
  induction l generalizing s with
  | nil => exact .refl s
  | cons a l ih => exact (hf s a).trans (ih _)

theorem drawRow_drawnFrom (base : State → Byte × Byte) (s : State) (row : Nat) : DrawnFrom s (drawRow base s row) :=
  DrawnFrom.foldl (drawColumn_drawnFrom base row _) _ s

/-- Drawing a sprite changes VF and the display alone. -/
theorem drawRows_drawnFrom (base : State → Byte × Byte) (n : Nat) (s : State) : DrawnFrom s (drawRows base n s) :=
  DrawnFrom.foldl (drawRow_drawnFrom base) _ s

theorem DrawnFrom.indexByte {s t : State} (h : DrawnFrom s t) (k : Nat) : t.indexByte k = s.indexByte k := by
  obtain ⟨f, d, rfl⟩ := h; rfl

theorem DrawnFrom.reg {s t : State} (h : DrawnFrom s t) {r : Reg} (hr : r ≠ vf) : t.reg r = s.reg r := by
  obtain ⟨f, d, rfl⟩ := h; exact State.reg_setReg_other s f hr

theorem plot_pixel (r p : Fin 32) (c q : Fin 64) (s : State) :
    (plot r c s).pixel p q = if p = r ∧ q = c then !s.pixel p q else s.pixel p q := by
  unfold plot
  split <;> simp [State.pixel_flipPixel]

theorem plot_vf (r : Fin 32) (c : Fin 64) (s : State) : (plot r c s).reg vf = if s.pixel r c then 1 else s.reg vf := by
  unfold plot
  split <;> simp

/-! ### Drawing pixel by pixel -/

/-- The m-th position of a sprite: column m mod 8 of row m / 8. -/
def drawPosition (base : State → Byte × Byte) (s : State) (m : Nat) : State :=
  drawColumn base (m / 8) (s.indexByte (m / 8)) s (m % 8)

theorem drawPosition_row (base : State → Byte × Byte) (row : Nat) (s : State) (l : List Nat) (hl : ∀ c ∈ l, c < 8)
    (t : State) (ht : DrawnFrom s t) :
    (l.map (8 * row + ·)).foldl (drawPosition base) t = l.foldl (drawColumn base row (s.indexByte row)) t := by
  induction l generalizing t with
  | nil => rfl
  | cons c l ih =>
    have hc := hl c List.mem_cons_self
    have e : drawPosition base t (8 * row + c) = drawColumn base row (s.indexByte row) t c := by
      unfold drawPosition
      rw [show (8 * row + c) / 8 = row by omega, show (8 * row + c) % 8 = c by omega, ht.indexByte]
    rw [List.map_cons, List.foldl_cons, List.foldl_cons, e]
    exact ih (fun d hd => hl d (List.mem_cons_of_mem _ hd)) _ (ht.trans (drawColumn_drawnFrom ..))

/-- A sprite is drawn position by position. -/
theorem drawRows_eq (base : State → Byte × Byte) (n : Nat) (s : State) :
    drawRows base n s = (List.range (8 * n)).foldl (drawPosition base) s := by
  induction n with
  | zero => rfl
  | succ n ih =>
    rw [Nat.mul_succ, List.range_add, List.foldl_append, ← ih,
      drawPosition_row base n (drawRows base n s) _ (by simp) _ (.refl _)]
    simp [drawRows, drawRow, List.range_succ]

/-- A property of the number of positions drawn holds after the whole sprite if every position keeps it. -/
theorem drawRows_induct {base : State → Byte × Byte} {n : Nat} {s : State} {P : Nat → State → Prop} (start : P 0 s)
    (next : ∀ m t, m < 8 * n → P m t → P (m + 1) (drawPosition base t m)) : P (8 * n) (drawRows base n s) := by
  rw [drawRows_eq]
  suffices h : ∀ k ≤ 8 * n, P k ((List.range k).foldl (drawPosition base) s) from h _ (Nat.le_refl _)
  intro k
  induction k with
  | zero => exact fun _ => start
  | succ k ih =>
    intro hk
    rw [List.range_succ, List.foldl_append]
    exact next k _ hk (ih (by omega))

end Sys2Proof.Machine
end

