-- ==== Sys2Proof/Laws/Forms.lean ====
section
/-! SUPPORT. One lemma for each operation that several meanings share: what it answers, and its frame
(spec/43_alu.md R140, spec/44_index_memory.md, spec/60_exceptions.md R203). -/

namespace Sys2Proof.Machine

/-- A form that writes one register. -/
theorem writeResult_spec (x : Reg) (b : Byte) (s : State) :
    ∃ t, writeResult x b s = .next t ∧ t.reg x = b ∧ t.pc = s.pc + 2 ∧ Frame s t (· = x) [.pc] := by
  refine ⟨_, rfl, by simp, by simp, fun r hr => by simp [State.reg_setReg, hr], fun p hp => ?_⟩
  cases p <;> simp_all [Part.same]

/-- A form that writes VF and then a result that it computed before. -/
theorem writeFlagThenResult_spec (flag : Bool) (x : Reg) (b : Byte) (s : State) :
    ∃ t, writeFlagThenResult flag x b s = .next t ∧ t.reg x = b ∧ (x ≠ vf → t.reg vf = flagByte flag) ∧
      t.pc = s.pc + 2 ∧ Frame s t (fun r => r = x ∨ r = vf) [.pc] := by
  refine ⟨_, rfl, by simp, fun h => by simp [State.reg_setReg, Ne.symm h], by simp, fun r hr => ?_, fun p hp => ?_⟩
  · rw [not_or] at hr; simp [State.reg_setReg, hr]
  · cases p <;> simp_all [Part.same]

/-- A form that writes VF and then updates a register that it reads again. -/
theorem writeFlagThenUpdate_spec (flag : Bool) (x : Reg) (f : Byte → Byte) (s : State) :
    ∃ t, writeFlagThenUpdate flag x f s = .next t ∧ (x ≠ vf → t.reg x = f (s.reg x) ∧ t.reg vf = flagByte flag) ∧
      (x = vf → t.reg vf = f (flagByte flag)) ∧ t.pc = s.pc + 2 ∧ Frame s t (fun r => r = x ∨ r = vf) [.pc] := by
  refine ⟨_, rfl, fun h => ⟨?_, ?_⟩, fun h => ?_, by simp, fun r hr => ?_, fun p hp => ?_⟩
  · simp [State.reg_setReg, h]
  · simp [State.reg_setReg, Ne.symm h]
  · subst h; simp
  · rw [not_or] at hr; simp [State.reg_setReg, hr]
  · cases p <;> simp_all [Part.same]

/-- Storing bytes from I on: they are read back in their order, and every other byte is as before. -/
theorem storeAtIndex_spec (ws : List Byte) (s : State) :
    (∀ k (h : k < ws.length), (storeAtIndex ws s).readByte (s.i.toNat + k) = ws[k]) ∧
    (∀ a, ¬ (s.i.toNat ≤ a ∧ a < s.i.toNat + ws.length) → (storeAtIndex ws s).readByte a = s.readByte a) ∧
    (storeAtIndex ws s).pc = s.pc + 2 ∧ Frame s (storeAtIndex ws s) noReg [.pc, .memory] := by
  have hr : ∀ a, (storeAtIndex ws s).readByte a = (s.writeBytes s.i.toNat ws).readByte a := fun _ => rfl
  refine ⟨fun k h => ?_, fun a h => ?_, rfl, fun r _ => rfl, fun p hp => ?_⟩
  · rw [hr, State.readByte_writeBytes, dif_pos (by omega)]
    simp
  · rw [hr, State.readByte_writeBytes, dif_neg h]
  · cases p <;> simp_all [Part.same, storeAtIndex]

/-- A bounds error of an instruction: the four writes, and nothing else. -/
theorem takeBoundsError_spec {i : Instr} {s : State} {cause : FaultCause} (h : exec i s = takeBoundsError cause i s) :
    FaultsWith i s cause := by
  refine ⟨_, h, rfl, rfl, rfl, rfl, fun r _ => rfl, fun p hp => ?_⟩
  cases p <;> simp_all [Part.same]

/-- The range check of the bytes from I on. -/
theorem indexOk_iff (s : State) (len : Nat) : s.indexOk len = true ↔ len = 0 ∨ s.i.toNat + len ≤ 4096 := checkMem_iff _ _

end Sys2Proof.Machine
end

