-- ==== Sys2Proof/Laws/PerInstr.lean ====
section
/-! SUPPORT. Statements made once per instruction. TableRow: the encoder sets every bit that the instruction's row of
spec/opcode_table.json fixes. -/

namespace Sys2Proof.Laws.TableRow

/-- Bits that a row fixes: `width` bits from bit `lo` up hold `value`. -/
structure Fixed where
  lo : Nat
  width : Nat
  value : Nat

/-- The fixed bits of an instruction's row, as the table lists them. -/
def fixedBits : Instr → List Fixed
  | .cls => [⟨0, 16, 224⟩]
  | .ret => [⟨0, 16, 238⟩]
  | .sys _ => [⟨12, 4, 0⟩]
  | .jp _ => [⟨12, 4, 1⟩]
  | .call _ => [⟨12, 4, 2⟩]
  | .seImm _ _ => [⟨12, 4, 3⟩]
  | .sneImm _ _ => [⟨12, 4, 4⟩]
  | .seReg _ _ => [⟨0, 4, 0⟩, ⟨12, 4, 5⟩]
  | .ldImm _ _ => [⟨12, 4, 6⟩]
  | .addImm _ _ => [⟨12, 4, 7⟩]
  | .ldReg _ _ => [⟨0, 4, 0⟩, ⟨12, 4, 8⟩]
  | .orReg _ _ => [⟨0, 4, 1⟩, ⟨12, 4, 8⟩]
  | .andReg _ _ => [⟨0, 4, 2⟩, ⟨12, 4, 8⟩]
  | .xorReg _ _ => [⟨0, 4, 3⟩, ⟨12, 4, 8⟩]
  | .addReg _ _ => [⟨0, 4, 4⟩, ⟨12, 4, 8⟩]
  | .subReg _ _ => [⟨0, 4, 5⟩, ⟨12, 4, 8⟩]
  | .shr _ _ => [⟨0, 4, 6⟩, ⟨12, 4, 8⟩]
  | .subnReg _ _ => [⟨0, 4, 7⟩, ⟨12, 4, 8⟩]
  | .shl _ _ => [⟨0, 4, 14⟩, ⟨12, 4, 8⟩]
  | .sneReg _ _ => [⟨0, 4, 0⟩, ⟨12, 4, 9⟩]
  | .ldIndex _ => [⟨12, 4, 10⟩]
  | .jpV0 _ => [⟨12, 4, 11⟩]
  | .rnd _ _ => [⟨12, 4, 12⟩]
  | .drw _ _ _ => [⟨12, 4, 13⟩]
  | .skp _ => [⟨0, 8, 158⟩, ⟨12, 4, 14⟩]
  | .sknp _ => [⟨0, 8, 161⟩, ⟨12, 4, 14⟩]
  | .ldVDt _ => [⟨0, 8, 7⟩, ⟨12, 4, 15⟩]
  | .ldVKey _ => [⟨0, 8, 10⟩, ⟨12, 4, 15⟩]
  | .ldDtV _ => [⟨0, 8, 21⟩, ⟨12, 4, 15⟩]
  | .ldStV _ => [⟨0, 8, 24⟩, ⟨12, 4, 15⟩]
  | .addIndex _ => [⟨0, 8, 30⟩, ⟨12, 4, 15⟩]
  | .ldFont _ => [⟨0, 8, 41⟩, ⟨12, 4, 15⟩]
  | .ldBcd _ => [⟨0, 8, 51⟩, ⟨12, 4, 15⟩]
  | .storeRegs _ => [⟨0, 8, 85⟩, ⟨12, 4, 15⟩]
  | .loadRegs _ => [⟨0, 8, 101⟩, ⟨12, 4, 15⟩]
  | .unrecognized _ => []

/-- The instruction's word holds its row's fixed bits. -/
def Statement (i : Instr) : Prop := ∀ f ∈ fixedBits i, ((encode i).extractLsb' f.lo f.width).toNat = f.value

theorem of_class {i : Instr} {c : BitVec 4} (h : opClass (encode i) = c) (hf : fixedBits i = [⟨12, 4, c.toNat⟩]) :
    Statement i := by
  intro f hm
  rw [hf, List.mem_singleton] at hm
  subst hm
  exact congrArg BitVec.toNat h

theorem of_low_nibble {i : Instr} {c n : BitVec 4} (h : opClass (encode i) = c) (hn : fieldN (encode i) = n)
    (hf : fixedBits i = [⟨0, 4, n.toNat⟩, ⟨12, 4, c.toNat⟩]) : Statement i := by
  intro f hm
  rw [hf] at hm
  rcases List.mem_cons.1 hm with rfl | hm
  · exact congrArg BitVec.toNat hn
  · rw [List.mem_singleton.1 hm]; exact congrArg BitVec.toNat h

theorem of_low_byte {i : Instr} {c : BitVec 4} {kk : Byte} (h : opClass (encode i) = c) (hk : fieldKK (encode i) = kk)
    (hf : fixedBits i = [⟨0, 8, kk.toNat⟩, ⟨12, 4, c.toNat⟩]) : Statement i := by
  intro f hm
  rw [hf] at hm
  rcases List.mem_cons.1 hm with rfl | hm
  · exact congrArg BitVec.toNat hk
  · rw [List.mem_singleton.1 hm]; exact congrArg BitVec.toNat h

theorem cls : Statement .cls := by unfold Statement; decide
theorem ret : Statement .ret := by unfold Statement; decide
theorem sys (nnn : Addr12) : Statement (.sys nnn) := of_class (opClass_wordNNN _ _) rfl
theorem jp (nnn : Addr12) : Statement (.jp nnn) := of_class (opClass_wordNNN _ _) rfl
theorem call (nnn : Addr12) : Statement (.call nnn) := of_class (opClass_wordNNN _ _) rfl
theorem seImm (x : Reg) (kk : Byte) : Statement (.seImm x kk) := of_class (opClass_wordXKK _ _ _) rfl
theorem sneImm (x : Reg) (kk : Byte) : Statement (.sneImm x kk) := of_class (opClass_wordXKK _ _ _) rfl
theorem seReg (x : Reg) (y : Reg) : Statement (.seReg x y) := of_low_nibble (opClass_wordXYN _ _ _ _) (fieldN_wordXYN _ _ _ _) rfl
theorem ldImm (x : Reg) (kk : Byte) : Statement (.ldImm x kk) := of_class (opClass_wordXKK _ _ _) rfl
theorem addImm (x : Reg) (kk : Byte) : Statement (.addImm x kk) := of_class (opClass_wordXKK _ _ _) rfl
theorem ldReg (x : Reg) (y : Reg) : Statement (.ldReg x y) := of_low_nibble (opClass_wordXYN _ _ _ _) (fieldN_wordXYN _ _ _ _) rfl
theorem orReg (x : Reg) (y : Reg) : Statement (.orReg x y) := of_low_nibble (opClass_wordXYN _ _ _ _) (fieldN_wordXYN _ _ _ _) rfl
theorem andReg (x : Reg) (y : Reg) : Statement (.andReg x y) := of_low_nibble (opClass_wordXYN _ _ _ _) (fieldN_wordXYN _ _ _ _) rfl
theorem xorReg (x : Reg) (y : Reg) : Statement (.xorReg x y) := of_low_nibble (opClass_wordXYN _ _ _ _) (fieldN_wordXYN _ _ _ _) rfl
theorem addReg (x : Reg) (y : Reg) : Statement (.addReg x y) := of_low_nibble (opClass_wordXYN _ _ _ _) (fieldN_wordXYN _ _ _ _) rfl
theorem subReg (x : Reg) (y : Reg) : Statement (.subReg x y) := of_low_nibble (opClass_wordXYN _ _ _ _) (fieldN_wordXYN _ _ _ _) rfl
theorem shr (x : Reg) (y : Reg) : Statement (.shr x y) := of_low_nibble (opClass_wordXYN _ _ _ _) (fieldN_wordXYN _ _ _ _) rfl
theorem subnReg (x : Reg) (y : Reg) : Statement (.subnReg x y) := of_low_nibble (opClass_wordXYN _ _ _ _) (fieldN_wordXYN _ _ _ _) rfl
theorem shl (x : Reg) (y : Reg) : Statement (.shl x y) := of_low_nibble (opClass_wordXYN _ _ _ _) (fieldN_wordXYN _ _ _ _) rfl
theorem sneReg (x : Reg) (y : Reg) : Statement (.sneReg x y) := of_low_nibble (opClass_wordXYN _ _ _ _) (fieldN_wordXYN _ _ _ _) rfl
theorem ldIndex (nnn : Addr12) : Statement (.ldIndex nnn) := of_class (opClass_wordNNN _ _) rfl
theorem jpV0 (nnn : Addr12) : Statement (.jpV0 nnn) := of_class (opClass_wordNNN _ _) rfl
theorem rnd (x : Reg) (kk : Byte) : Statement (.rnd x kk) := of_class (opClass_wordXKK _ _ _) rfl
theorem drw (x : Reg) (y : Reg) (n : BitVec 4) : Statement (.drw x y n) := of_class (opClass_wordXYN _ _ _ _) rfl
theorem skp (x : Reg) : Statement (.skp x) := of_low_byte (opClass_wordXKK _ _ _) (fieldKK_wordXKK _ _ _) rfl
theorem sknp (x : Reg) : Statement (.sknp x) := of_low_byte (opClass_wordXKK _ _ _) (fieldKK_wordXKK _ _ _) rfl
theorem ldVDt (x : Reg) : Statement (.ldVDt x) := of_low_byte (opClass_wordXKK _ _ _) (fieldKK_wordXKK _ _ _) rfl
theorem ldVKey (x : Reg) : Statement (.ldVKey x) := of_low_byte (opClass_wordXKK _ _ _) (fieldKK_wordXKK _ _ _) rfl
theorem ldDtV (x : Reg) : Statement (.ldDtV x) := of_low_byte (opClass_wordXKK _ _ _) (fieldKK_wordXKK _ _ _) rfl
theorem ldStV (x : Reg) : Statement (.ldStV x) := of_low_byte (opClass_wordXKK _ _ _) (fieldKK_wordXKK _ _ _) rfl
theorem addIndex (x : Reg) : Statement (.addIndex x) := of_low_byte (opClass_wordXKK _ _ _) (fieldKK_wordXKK _ _ _) rfl
theorem ldFont (x : Reg) : Statement (.ldFont x) := of_low_byte (opClass_wordXKK _ _ _) (fieldKK_wordXKK _ _ _) rfl
theorem ldBcd (x : Reg) : Statement (.ldBcd x) := of_low_byte (opClass_wordXKK _ _ _) (fieldKK_wordXKK _ _ _) rfl
theorem storeRegs (x : Reg) : Statement (.storeRegs x) := of_low_byte (opClass_wordXKK _ _ _) (fieldKK_wordXKK _ _ _) rfl
theorem loadRegs (x : Reg) : Statement (.loadRegs x) := of_low_byte (opClass_wordXKK _ _ _) (fieldKK_wordXKK _ _ _) rfl
theorem unrecognized (op : Word) : Statement (.unrecognized op) := by intro f hf; cases hf

end Sys2Proof.Laws.TableRow
end

