-- ==== Sys2Proof/Tests/Slice0.lean ====
section
/-! SUPPORT. The model's own tests, their expected results taken from spec/95_test_vectors.md (each names its row) and
from the patterns of spec/30_encoding.md, and a witness for the hypotheses of every statement that has some. -/

namespace Sys2Proof.Tests

open Sys2Proof Sys2Proof.Machine

/-! ## Small states -/

/-- The state after an outcome, where there is one. -/
def stateOf : Host.Outcome State Fault Refusal → Option State
  | .next t => some t
  | .fault _ => none
  | .refused _ => none

/-- Registers set one after another. -/
def regs (l : List (Reg × Byte)) (s : State) : State := l.foldl (fun t p => t.setReg p.1 p.2) s

/-- Pixels turned on. -/
def lit (l : List (Fin 32 × Fin 64)) (s : State) : State := l.foldl (fun t p => t.flipPixel p.1 p.2) s

/-- Keys held. -/
def held (l : List Key) (s : State) : State := l.foldl (fun t k => t.writeKey k true) s

/-- Bytes stored from an address on. -/
def bytes (a : Nat) (ws : List Byte) (s : State) : State := s.writeBytes a ws

/-- A word at pc, and one step. -/
def ran (op : Nat) (s : State) : Option State := stateOf (step (s.withFetchWord 16 op))

/-- What a test checks of the state after one step. -/
def look {α : Type} (op : Nat) (s : State) (f : State → α) : Option α := (ran op s).map f

/-- A fault is shown by its record and the pc. -/
def fault (t : State) : Bool × FaultCause × Word × Word × Word := (t.halted, t.faultCause, t.faultPc, t.faultOpcode, t.pc)

/-- V[x], VF and pc. -/
def regFlagPc (x : Reg) (t : State) : Byte × Byte × Word := (t.reg x, t.reg 15, t.pc)

/-! ## Well-formedness: each check refuses an ill-formed term -/

theorem test_ill_sys_cls : (Instr.sys 0x0E0#12).wellFormed = false := by decide
theorem test_ill_sys_ret : (Instr.sys 0x0EE#12).wellFormed = false := by decide
theorem test_ill_unrecognized_class0 : (Instr.unrecognized 0x0123#16).wellFormed = false := by decide
theorem test_ill_unrecognized_class5 : (Instr.unrecognized 0x5120#16).wellFormed = false := by decide
theorem test_ill_unrecognized_class8 : (Instr.unrecognized 0x812E#16).wellFormed = false := by decide
theorem test_ill_unrecognized_class9 : (Instr.unrecognized 0x9AB0#16).wellFormed = false := by decide
theorem test_ill_unrecognized_classE : (Instr.unrecognized 0xE3A1#16).wellFormed = false := by decide
theorem test_ill_unrecognized_classF : (Instr.unrecognized 0xF065#16).wellFormed = false := by decide
theorem test_well_sys : (Instr.sys 0x0E1#12).wellFormed = true := by decide
theorem test_well_unrecognized :
    [0x5121#16, 0x8128#16, 0x8ABF#16, 0x9121#16, 0xE19F#16, 0xF0FF#16, 0xF175#16].all
      (fun w => (Instr.unrecognized w).wellFormed) = true := by decide

/-! ## Decoding: one hand-written word for every constructor (30_encoding.md R85..R92) -/

theorem test_decode_cls : decode 0x00E0#16 = .cls := by decide
theorem test_decode_ret : decode 0x00EE#16 = .ret := by decide
theorem test_decode_sys : decode 0x0E0E#16 = .sys 0xE0E#12 := by decide
theorem test_decode_jp : decode 0x1ABC#16 = .jp 0xABC#12 := by decide
theorem test_decode_call : decode 0x2301#16 = .call 0x301#12 := by decide
theorem test_decode_seImm : decode 0x3A42#16 = .seImm 0xA#4 0x42#8 := by decide
theorem test_decode_sneImm : decode 0x4B43#16 = .sneImm 0xB#4 0x43#8 := by decide
theorem test_decode_seReg : decode 0x5120#16 = .seReg 0x1#4 0x2#4 := by decide
theorem test_decode_ldImm : decode 0x67C3#16 = .ldImm 0x7#4 0xC3#8 := by decide
theorem test_decode_addImm : decode 0x7F03#16 = .addImm 0xF#4 0x03#8 := by decide
theorem test_decode_ldReg : decode 0x8320#16 = .ldReg 0x3#4 0x2#4 := by decide
theorem test_decode_orReg : decode 0x8461#16 = .orReg 0x4#4 0x6#4 := by decide
theorem test_decode_andReg : decode 0x8D92#16 = .andReg 0xD#4 0x9#4 := by decide
theorem test_decode_xorReg : decode 0x8C53#16 = .xorReg 0xC#4 0x5#4 := by decide
theorem test_decode_addReg : decode 0x8014#16 = .addReg 0x0#4 0x1#4 := by decide
theorem test_decode_subReg : decode 0x8F15#16 = .subReg 0xF#4 0x1#4 := by decide
theorem test_decode_shr : decode 0x8476#16 = .shr 0x4#4 0x7#4 := by decide
theorem test_decode_subnReg : decode 0x8237#16 = .subnReg 0x2#4 0x3#4 := by decide
theorem test_decode_shl : decode 0x849E#16 = .shl 0x4#4 0x9#4 := by decide
theorem test_decode_sneReg : decode 0x9560#16 = .sneReg 0x5#4 0x6#4 := by decide
theorem test_decode_ldIndex : decode 0xA5C3#16 = .ldIndex 0x5C3#12 := by decide
theorem test_decode_jpV0 : decode 0xB201#16 = .jpV0 0x201#12 := by decide
theorem test_decode_rnd : decode 0xC50F#16 = .rnd 0x5#4 0x0F#8 := by decide
theorem test_decode_drw : decode 0xD0F5#16 = .drw 0x0#4 0xF#4 0x5#4 := by decide
theorem test_decode_skp : decode 0xE19E#16 = .skp 0x1#4 := by decide
theorem test_decode_sknp : decode 0xE2A1#16 = .sknp 0x2#4 := by decide
theorem test_decode_ldVDt : decode 0xF307#16 = .ldVDt 0x3#4 := by decide
theorem test_decode_ldVKey : decode 0xFF0A#16 = .ldVKey 0xF#4 := by decide
theorem test_decode_ldDtV : decode 0xF415#16 = .ldDtV 0x4#4 := by decide
theorem test_decode_ldStV : decode 0xF218#16 = .ldStV 0x2#4 := by decide
theorem test_decode_addIndex : decode 0xF21E#16 = .addIndex 0x2#4 := by decide
theorem test_decode_ldFont : decode 0xF029#16 = .ldFont 0x0#4 := by decide
theorem test_decode_ldBcd : decode 0xF933#16 = .ldBcd 0x9#4 := by decide
theorem test_decode_storeRegs : decode 0xFF55#16 = .storeRegs 0xF#4 := by decide
theorem test_decode_loadRegs : decode 0xF665#16 = .loadRegs 0x6#4 := by decide
theorem test_decode_unrecognized : decode 0xFFFF#16 = .unrecognized 0xFFFF#16 := by decide
theorem test_decode_big_endian : (decodeBytes [0x12#8, 0x34#8, 0x56#8]).toOption = some (.jp 0x234#12, [0x56#8]) := by decide
theorem test_decode_truncated : (decodeBytes [0x12#8]).toOption = none := by decide
theorem test_decodeTableWord : decodeTableWord 16 0x8014 = some (.addReg 0x0#4 0x1#4) := by decide

/-! ## The step cycle -/

/-- V-SEQ-1. -/
theorem test_sys : look 0x0123 State.reset (fun t => (t.pc, t.reports, t.halted)) = some (0x202#16, [], false) := by decide
/-- V-SEQ-3: 00E1 is SYS and clears nothing. -/
theorem test_sys_near_cls : look 0x00E1 (lit [(0, 0)] State.reset) (fun t => (t.pc, t.pixel 0 0)) = some (0x202#16, true) := by
  decide
/-- V-SEQ-6. -/
theorem test_unrecognized : look 0x5121 (regs [(1, 3), (2, 3)] State.reset) (fun t => (t.pc, t.reports)) =
    some (0x202#16, [{ pc := 0x200#16, opcode := 0x5121#16 }]) := by decide
/-- E10. -/
theorem test_unrecognized_ffff : look 0xFFFF State.reset (fun t => (t.pc, t.reports, t.sp, t.halted)) =
    some (0x202#16, [{ pc := 0x200#16, opcode := 0xFFFF#16 }], 0, false) := by decide
/-- V-SEQ-15. -/
theorem test_fetch_bounds : (stateOf (step { State.reset with pc := 4095 })).map fault =
    some (true, .fetchBounds, 4095#16, 0#16, 4095#16) := by decide
/-- V-SEQ-13: the last legal pc. -/
theorem test_fetch_last : look 0x6001 { State.reset with pc := 4094 } (fun t => (t.reg 0, t.pc)) = some (1#8, 4096#16) := by
  decide
/-- V-SEQ-16: an odd pc. -/
theorem test_fetch_odd : look 0x602A { State.reset with pc := 0x201 } (fun t => (t.reg 0, t.pc)) =
    some (0x2A#8, 0x203#16) := by decide
/-- V-SEQ-17. -/
theorem test_halted_stuck : stateOf (step { State.reset with halted := true, faultCause := .memBounds }) = none := by decide

/-! ## Control transfer -/

/-- V-FLOW-1: the popped entry keeps its value. -/
theorem test_ret : look 0x00EE { State.reset with sp := 1, stack := State.reset.stack.set 0 0x204#16 }
    (fun t => (t.sp, t.pc, t.stack[0])) = some (0, 0x206#16, 0x204#16) := by decide
/-- V-FLOW-2. -/
theorem test_ret_underflow : look 0x00EE State.reset fault =
    some (true, .stackUnderflow, 0x200#16, 0x00EE#16, 0x200#16) := by decide
/-- V-FLOW-4. -/
theorem test_jp : look 0x1ABC State.reset (fun t => t.pc) = some 0xABC#16 := by decide
/-- V-FLOW-5. -/
theorem test_jp_last : look 0x1FFF State.reset (fun t => (t.pc, t.halted)) = some (0xFFF#16, false) := by decide
/-- V-FLOW-8: the 16th level is legal. -/
theorem test_call : look 0x2300 { State.reset with sp := 15 } (fun t => (t.stack[15], t.sp, t.pc)) =
    some (0x200#16, 16, 0x300#16) := by decide
/-- V-FLOW-9. -/
theorem test_call_overflow : look 0x2300 { State.reset with sp := 16 } fault =
    some (true, .stackOverflow, 0x200#16, 0x2300#16, 0x200#16) := by decide
/-- V-FLOW-11: the exact sum. -/
theorem test_jpV0 : look 0xBFFF (regs [(0, 0xFF)] State.reset) (fun t => t.pc) = some 4350#16 := by decide
/-- V-FLOW-13: V0, whatever the digit 3 is. -/
theorem test_jpV0_register : look 0xB300 (regs [(0, 0x05), (3, 0x77)] State.reset) (fun t => t.pc) = some 0x305#16 := by
  decide

/-! ## Skips -/

/-- V-SKIP-1. -/
theorem test_seImm : look 0x3342 (regs [(3, 0x42)] State.reset) (fun t => t.pc) = some 0x204#16 := by decide
/-- V-SKIP-2. -/
theorem test_seImm_not : look 0x3342 (regs [(3, 0x41)] State.reset) (fun t => t.pc) = some 0x202#16 := by decide
/-- V-SKIP-3. -/
theorem test_sneImm : look 0x4001 State.reset (fun t => t.pc) = some 0x204#16 := by decide
/-- V-SKIP-4. -/
theorem test_sneImm_not : look 0x4001 (regs [(0, 1)] State.reset) (fun t => t.pc) = some 0x202#16 := by decide
/-- V-SKIP-5. -/
theorem test_seReg : look 0x5120 (regs [(1, 7), (2, 7)] State.reset) (fun t => t.pc) = some 0x204#16 := by decide
/-- V-SKIP-6. -/
theorem test_seReg_not : look 0x5120 (regs [(1, 7), (2, 8)] State.reset) (fun t => t.pc) = some 0x202#16 := by decide
/-- V-SKIP-8. -/
theorem test_sneReg : look 0x9120 (regs [(1, 7), (2, 8)] State.reset) (fun t => t.pc) = some 0x204#16 := by decide
/-- V-SKIP-10. -/
theorem test_sneReg_not : look 0x9550 (regs [(5, 9)] State.reset) (fun t => t.pc) = some 0x202#16 := by decide

/-! ## Arithmetic and logic -/

/-- V-ALU-1. -/
theorem test_ldImm : look 0x6A2F State.reset (regFlagPc 10) = some (0x2F#8, 0#8, 0x202#16) := by decide
/-- V-ALU-2. -/
theorem test_addImm : look 0x70FF (regs [(0, 5), (15, 7)] State.reset) (regFlagPc 0) = some (4#8, 7#8, 0x202#16) := by decide
/-- V-ALU-4. -/
theorem test_addImm_vf : look 0x7F03 (regs [(15, 0xFE)] State.reset) (regFlagPc 15) = some (1#8, 1#8, 0x202#16) := by decide
/-- V-ALU-5. -/
theorem test_ldReg : look 0x8320 (regs [(2, 0x11)] State.reset) (regFlagPc 3) = some (0x11#8, 0#8, 0x202#16) := by decide
/-- V-ALU-10. -/
theorem test_orReg : look 0x8011 (regs [(0, 0xF0), (1, 0x0F), (15, 9)] State.reset) (regFlagPc 0) =
    some (0xFF#8, 9#8, 0x202#16) := by decide
/-- V-ALU-7. -/
theorem test_andReg : look 0x8012 (regs [(0, 0xF0), (1, 0x3C)] State.reset) (regFlagPc 0) =
    some (0x30#8, 0#8, 0x202#16) := by decide
/-- V-ALU-8. -/
theorem test_xorReg : look 0x8013 (regs [(0, 0xF0), (1, 0x3C)] State.reset) (regFlagPc 0) =
    some (0xCC#8, 0#8, 0x202#16) := by decide
/-- V-ALU-12: x = 15, the sum overwrites the carry. -/
theorem test_addReg_vf : look 0x8F14 (regs [(15, 250), (1, 10)] State.reset) (regFlagPc 15) =
    some (4#8, 4#8, 0x202#16) := by decide
/-- V-ALU-17: y = 15, the old VF is the addend. -/
theorem test_addReg_y : look 0x80F4 (regs [(0, 3), (15, 200)] State.reset) (regFlagPc 0) =
    some (203#8, 0#8, 0x202#16) := by decide
/-- V-ALU-18. -/
theorem test_subReg : look 0x8015 (regs [(0, 5), (1, 10)] State.reset) (regFlagPc 0) = some (251#8, 0#8, 0x202#16) := by
  decide
/-- V-ALU-20: equal, no borrow. -/
theorem test_subReg_equal : look 0x8015 (regs [(0, 7), (1, 7)] State.reset) (regFlagPc 0) =
    some (0#8, 1#8, 0x202#16) := by decide
/-- V-ALU-25: y is ignored. -/
theorem test_shr : look 0x8476 (regs [(4, 0x80), (7, 0xFF)] State.reset) (regFlagPc 4) =
    some (0x40#8, 0#8, 0x202#16) := by decide
/-- V-ALU-26: x = 15. -/
theorem test_shr_vf : look 0x8F06 (regs [(15, 0xFF)] State.reset) (regFlagPc 15) = some (0#8, 0#8, 0x202#16) := by decide
/-- V-ALU-28. -/
theorem test_subnReg : look 0x8017 (regs [(0, 5), (1, 10)] State.reset) (regFlagPc 0) = some (5#8, 1#8, 0x202#16) := by
  decide
/-- V-ALU-30: x = 15. -/
theorem test_subnReg_vf : look 0x8F17 (regs [(15, 5), (1, 10)] State.reset) (regFlagPc 15) =
    some (5#8, 5#8, 0x202#16) := by decide
/-- V-ALU-32. -/
theorem test_shl : look 0x840E (regs [(4, 0x81)] State.reset) (regFlagPc 4) = some (0x02#8, 1#8, 0x202#16) := by decide
/-- V-ALU-35: x = 15, bit 7 set. -/
theorem test_shl_vf : look 0x8F0E (regs [(15, 0x80)] State.reset) (regFlagPc 15) = some (2#8, 2#8, 0x202#16) := by decide
/-- V-ALU-38: kk = 0, whatever is drawn; one byte is drawn. -/
theorem test_rnd : (look 0xC500 State.reset (fun t => t.reg 5) = some 0#8) ∧
    look 0xC500 State.reset (fun t => (t.draws, t.pc)) = some (1, 0x202#16) := by
  refine ⟨?_, by decide⟩
  have h : ∀ b : Byte, b &&& 0#8 = 0#8 := fun b => BitVec.and_zero
  exact congrArg some (h (Config.rnd 0))

/-! ## The index register and memory -/

/-- V-IDX-1. -/
theorem test_ldIndex : look 0xA300 { State.reset with i := 0xF123 } (fun t => (t.i, t.pc)) = some (0x0300#16, 0x202#16) := by
  decide
/-- V-IDX-3. -/
theorem test_addIndex : look 0xF21E { regs [(2, 1)] State.reset with i := 0xFFF } (fun t => (t.i, t.reg 15, t.halted)) =
    some (0x1000#16, 0#8, false) := by decide
/-- V-IDX-4. -/
theorem test_addIndex_wraps : look 0xF21E { regs [(2, 1), (15, 9)] State.reset with i := 0xFFFF }
    (fun t => (t.i, t.reg 15)) = some (0#16, 9#8) := by decide
/-- V-IDX-5. -/
theorem test_ldFont : look 0xF029 (regs [(0, 0x0A)] State.reset) (fun t => t.i) = some 50#16 := by decide
/-- V-IDX-7: no mask. -/
theorem test_ldFont_max : look 0xF029 (regs [(0, 0xFF)] State.reset) (fun t => t.i) = some 1275#16 := by decide
/-- V-IDX-8. -/
theorem test_ldBcd : look 0xF033 { regs [(0, 234)] State.reset with i := 1000 }
    (fun t => (t.readByte 1000, t.readByte 1001, t.readByte 1002, t.i)) = some (2#8, 3#8, 4#8, 1000#16) := by decide
/-- V-IDX-11. -/
theorem test_ldBcd_bounds : look 0xF033 { regs [(0, 255)] State.reset with i := 4094 } fault =
    some (true, .memBounds, 0x200#16, 0xF033#16, 0x200#16) := by decide
/-- V-IDX-12. -/
theorem test_storeRegs : look 0xF155 { regs [(0, 1), (1, 2)] State.reset with i := 0x400 }
    (fun t => (t.readByte 0x400, t.readByte 0x401, t.i)) = some (1#8, 2#8, 0x400#16) := by decide
/-- V-IDX-14. -/
theorem test_storeRegs_bounds : look 0xFF55 { State.reset with i := 4081 } fault =
    some (true, .memBounds, 0x200#16, 0xFF55#16, 0x200#16) := by decide
/-- V-IDX-15. -/
theorem test_loadRegs : look 0xF265 { bytes 0x400 [7, 8, 9] State.reset with i := 0x400 }
    (fun t => (t.reg 0, t.reg 1, t.reg 2, t.reg 3, t.i)) = some (7#8, 8#8, 9#8, 0#8, 0x400#16) := by decide
/-- V-IDX-17. -/
theorem test_loadRegs_bounds : look 0xF665 { State.reset with i := 4090 } fault =
    some (true, .memBounds, 0x200#16, 0xF665#16, 0x200#16) := by decide

/-! ## Display -/

/-- V-DISP-1. -/
theorem test_cls : look 0x00E0 (lit [(0, 0), (5, 9), (31, 63)] State.reset)
    (fun t => (t.pixel 0 0, t.pixel 5 9, t.pixel 31 63, t.redraw, t.pc)) =
    some (false, false, false, true, 0x202#16) := by decide
/-- V-DISP-2. -/
theorem test_cls_blank : look 0x00E0 State.reset (fun t => t.redraw) = some true := by decide

/-- V-DISP-3 and E11, columns wrap; V-DISP-9, a fault changes nothing. -/
theorem test_drw :
    look 0xD011 { bytes 0x300 [0xFF] (regs [(0, 60)] State.reset) with i := 0x300 }
      (fun t => ([t.pixel 0 59, t.pixel 0 60, t.pixel 0 63, t.pixel 0 0, t.pixel 0 3, t.pixel 0 4, t.redraw], t.reg 15)) =
      some ([false, true, true, true, true, false, true], 0#8) ∧
    look 0xD012 { regs [(15, 1)] State.reset with i := 4095 } (fun t => (fault t, t.reg 15, t.redraw)) =
      some ((true, .memBounds, 0x200#16, 0xD012#16, 0x200#16), 1#8, false) := ⟨by decide, by decide⟩

/-- The pre-state of V-DISP-13 and V-DISP-14. -/
def collision (r : CoordRead) : State :=
  { lit [(0, 0)] (bytes 0x300 [0xC0, 0x80] State.reset) with i := 0x300, params := { drwCoordRead := r, keyChoice := [] } }

/-- The pixels those rows name, and VF. -/
def collisionShown (t : State) : Bool × Bool × Bool × Bool × Bool × Byte :=
  (t.pixel 0 0, t.pixel 0 1, t.pixel 1 0, t.pixel 1 1, t.pixel 2 0, t.reg 15)

/-- V-DISP-13 and V-DISP-14: y = 15 under LATCHED and under PER_PIXEL. -/
theorem test_drw_coordinates :
    look 0xD0F2 (collision .latched) collisionShown = some (false, true, true, false, false, 1#8) ∧
    look 0xD0F2 (collision .perPixel) collisionShown = some (false, false, false, true, true, 1#8) := ⟨by decide, by decide⟩

/-! ## Keys and timers -/

/-- V-KEY-1. -/
theorem test_skp : look 0xE19E { held [4] (regs [(1, 4)] State.reset) with pc := 0x220 } (fun t => t.pc) =
    some 0x224#16 := by decide
/-- V-KEY-5. -/
theorem test_skp_range : look 0xE19E (regs [(1, 16)] State.reset) fault =
    some (true, .keyRange, 0x200#16, 0xE19E#16, 0x200#16) := by decide
/-- V-KEY-3. -/
theorem test_sknp : look 0xE1A1 { regs [(1, 4)] State.reset with pc := 0x220 } (fun t => t.pc) = some 0x224#16 := by decide
/-- V-KEY-6. -/
theorem test_sknp_range : look 0xE1A1 (held [15] (regs [(1, 0xFF)] State.reset)) fault =
    some (true, .keyRange, 0x200#16, 0xE1A1#16, 0x200#16) := by decide
/-- V-KEY-7. -/
theorem test_ldVKey_waits : look 0xF00A State.reset (fun t => (t.reg 0, t.pc, t.halted)) = some (0#8, 0x200#16, false) := by
  decide
/-- V-KEY-9. -/
theorem test_ldVKey : look 0xF30A (held [9, 3] State.reset) (fun t => (t.reg 3, t.pc)) = some (3#8, 0x202#16) := by decide
/-- V-KEY-11. -/
theorem test_ldVDt : look 0xF307 { State.reset with dt := 0x3C } (fun t => (t.reg 3, t.dt, t.pc)) =
    some (0x3C#8, 0x3C#8, 0x202#16) := by decide
/-- V-KEY-12. -/
theorem test_ldDtV : look 0xF015 (regs [(0, 5)] State.reset) (fun t => (t.dt, t.st, t.pc)) =
    some (5#8, 0#8, 0x202#16) := by decide
/-- V-KEY-14. -/
theorem test_ldStV : look 0xF218 (regs [(2, 0x10)] State.reset) (fun t => (t.st, t.dt, t.outputs.soundOn, t.pc)) =
    some (0x10#8, 0#8, true, 0x202#16) := by decide

/-! ## The other agents -/

/-- V-TICK-2 and V-TICK-4. -/
theorem test_tick : ((tick { State.reset with st := 1 }).dt, (tick { State.reset with st := 1 }).outputs.soundOn,
    (tick { State.reset with dt := 255, st := 255 }).dt, (tick { State.reset with dt := 255, st := 255 }).st) =
    (0#8, false, 254#8, 254#8) := by decide
/-- V-TICK-5. -/
theorem test_tick_halted : stateOf (step { State.reset with halted := true, dt := 3, schedule := [.tick] }) = none := by
  decide
/-- V-TICK-7: the tick of the schedule comes first. -/
theorem test_tick_then_step : (stateOf (step { State.reset with dt := 1, schedule := [.tick, .step] })).map
    (fun t => (t.dt, t.schedule, t.pc)) = some (0#8, [.step], 0x200#16) := by decide
/-- 60_exceptions.md R222: a capture takes the display where redraw is set, and clears redraw. -/
theorem test_capture : ({ State.reset with redraw := true }.captureDisplay.1.isSome,
    { State.reset with redraw := true }.captureDisplay.2.redraw, State.reset.captureDisplay.1.isSome) =
    (true, false, false) := by decide

/-- A boot with a short image, one MEM_INIT byte and one cell outside memory. -/
def boot : BootImage := { image := [0x12, 0x34], font := defaultFont, memInit := [(0x300, 0x55), (5000, 1)] }

/-- 70_reset_and_hazards.md R240: the registers and the status record. -/
theorem test_reset : (stateOf (step { State.reset with halted := true, sp := 3, dt := 9, schedule := [.reset boot] })).map
    (fun t => (t.halted, t.sp, t.dt, t.pc)) = some (false, 0, 0#8, 0x200#16) := by decide
/-- 70_reset_and_hazards.md R240..R242: the image from 512, the font from 0, and the host's MEM_INIT byte. -/
theorem test_reset_memory : Memory.read (bootMemory boot) 0x201 = 0x34#8 ∧ Memory.read (bootMemory boot) 4 = 0xF0#8 ∧
    Memory.read (bootMemory boot) 0x300 = 0x55#8 := by
  refine ⟨?_, ?_, ?_⟩ <;> rw [bootMemory, Memory.read_writeBytes]
  · decide
  · rw [dif_neg (by decide), Memory.read_writeBytes]; decide
  · rw [dif_neg (by decide), Memory.read_writeBytes, dif_neg (by decide)]; decide

/-- 70_reset_and_hazards.md R243: 3585 bytes are too many. -/
theorem test_reset_overlong (l : List Byte) (hl : l = List.replicate 3585 0) :
    stateOf (step { State.reset with schedule := [.reset { boot with image := l }] }) = none := by
  have h : ¬ l.length ≤ maxImage := by rw [hl, List.length_replicate]; decide
  show stateOf (resetWith _ _) = none
  rw [resetWith, if_neg h]
  rfl

/-! ## Witnesses: for every statement that has hypotheses, values that meet them, at the boundary for each clause -/

/-- A register, a key, a stack depth and I at chosen values. -/
def withIndex (a : Word) : State := { State.reset with i := a }
/-- A stack of a given depth. -/
def withDepth (d : Fin 17) : State := { State.reset with sp := d }
/-- A machine that a bounds error has stopped, with some requests. -/
def stopped (l : List Transaction) : State := { State.reset.raise .memBounds 0xF033 with schedule := l }
/-- A running machine with some requests. -/
def asked (l : List Transaction) : State := { State.reset with schedule := l }

theorem witness_DecodeUndoesEncode : (Instr.sys 0x0E1#12).wellFormed = true ∧ (Instr.sys 0x0ED#12).wellFormed = true ∧
    (Instr.unrecognized 0x5FF1#16).wellFormed = true ∧ (Instr.unrecognized 0xFFFF#16).wellFormed = true ∧
    (Instr.drw 15#4 15#4 15#4).wellFormed = true := by decide

theorem witness_InstructionsAreTwoBytes : ([] : List Byte).length < 2 ∧ [0xFF#8].length < 2 := by decide

/-- At the last fetchable pc, with an empty and with a waiting schedule. -/
theorem witness_StepRunsDecodedInstruction :
    let s := bytes 4094 [0x60, 0x01] { State.reset with pc := 4094 }
    (s.stepsNext [] ∧ ({ s with schedule := [.step, .tick] } : State).stepsNext [.tick]) ∧ s.pc.toNat ≤ 4094 ∧
    (Instr.ldImm 0 1).wellFormed = true ∧
    decodeBytes [s.readByte s.pc.toNat, s.readByte (s.pc.toNat + 1)] = .ok (.ldImm 0 1, []) :=
  ⟨⟨⟨rfl, .inr ⟨rfl, rfl⟩⟩, ⟨rfl, .inl rfl⟩⟩, by decide, by decide, by rfl⟩

theorem witness_FetchBeyondMemoryFaults :
    let s : State := { State.reset with pc := 4095 }
    s.stepsNext [] ∧ 4094 < s.pc.toNat := ⟨⟨rfl, .inr ⟨rfl, rfl⟩⟩, by decide⟩

theorem witness_PlacedWordIsRun : (0 : Nat) < 65536 ∧ (65535 : Nat) < 65536 := by decide

/-- Each fault of the table at the first value that raises it, and the last value that does not. -/
theorem witness_FaultsAreTheTable :
    (faultOf .ret (withDepth 0) = some .stackUnderflow ∧ faultOf .ret (withDepth 1) = none) ∧
    (faultOf (.call 0) (withDepth 16) = some .stackOverflow ∧ faultOf (.call 0) (withDepth 15) = none) ∧
    (faultOf (.drw 0 0 2) (withIndex 4095) = some .memBounds ∧ faultOf (.drw 0 0 1) (withIndex 4095) = none ∧
      faultOf (.drw 0 0 0) (withIndex 0xFFFF) = none) ∧
    (faultOf (.ldBcd 0) (withIndex 4094) = some .memBounds ∧ faultOf (.ldBcd 0) (withIndex 4093) = none) ∧
    (faultOf (.storeRegs 15) (withIndex 4081) = some .memBounds ∧ faultOf (.storeRegs 15) (withIndex 4080) = none) ∧
    (faultOf (.loadRegs 0) (withIndex 4096) = some .memBounds ∧ faultOf (.loadRegs 0) (withIndex 4095) = none) ∧
    (faultOf (.skp 1) (regs [(1, 16)] State.reset) = some .keyRange ∧
      faultOf (.skp 1) (regs [(1, 15)] State.reset) = none) ∧
    (faultOf (.sknp 1) (regs [(1, 16)] State.reset) = some .keyRange ∧
      faultOf (.sknp 1) (regs [(1, 15)] State.reset) = none) := by decide

/-- A fault of an instruction and a fault of the fetch. -/
theorem witness_FaultRecordNamesFetchedWord :
    (∃ t, (State.reset.withFetchWord 16 0x00EE).stepsNext [] ∧ step (State.reset.withFetchWord 16 0x00EE) = .next t ∧
      t.halted = true) ∧
    ∃ t, ({ State.reset with pc := 4095 } : State).stepsNext [] ∧ step { State.reset with pc := 4095 } = .next t ∧
      t.halted = true :=
  ⟨⟨_, ⟨rfl, .inr ⟨rfl, rfl⟩⟩, rfl, rfl⟩, ⟨_, ⟨rfl, .inr ⟨rfl, rfl⟩⟩, rfl, rfl⟩⟩

theorem witness_HaltedMachineIsStuck :
    let waiting : List Transaction := [.step, .tick]
    (stopped []).halted = true ∧ (∀ r ∈ waiting, r = .step ∨ r = .tick) ∧ (stopped waiting).schedule = waiting ∧
    (stopped (waiting ++ [.setKey 15 true])).schedule = waiting ++ .setKey 15 true :: [] ∧
    (stopped (waiting ++ [.clearRedraw, .step])).schedule = waiting ++ .clearRedraw :: [.step] := by decide

/-- A halted machine that serves a reset, and one that serves a key. -/
theorem witness_OnlyResetClearsHalted :
    (∃ t, (stopped [.step, .reset boot]).halted = true ∧ step (stopped [.step, .reset boot]) = .next t) ∧
    ∃ t, (stopped [.setKey 0 true]).halted = true ∧ step (stopped [.setKey 0 true]) = .next t :=
  ⟨⟨_, rfl, rfl⟩, ⟨_, rfl, rfl⟩⟩

/-- Both timers at 0, and at 1 and 255. -/
theorem witness_TickCountsDown :
    let s := asked [.tick]
    (s.schedule = .tick :: [] ∧ s.halted = false ∧ s.dt.toNat = 0 ∧ s.st.toNat = 0) ∧
    (0 < ({ s with dt := 1, st := 255 } : State).dt.toNat ∧ 0 < ({ s with dt := 1, st := 255 } : State).st.toNat) := by decide

theorem witness_HostActionsTouchKeysAndRedrawAlone :
    (asked [.setKey 15 true, .step]).schedule = .setKey 15 true :: [.step] ∧
    (stopped [.clearRedraw]).schedule = .clearRedraw :: [] := by decide

/-- The longest image, and a MEM_INIT byte that the host gives once. -/
theorem witness_ResetBootsTheMachine :
    (∃ l : List Byte, l.length = 3584 ∧
      (asked [.reset { boot with image := l }]).schedule = .reset { boot with image := l } :: []) ∧
    boot.image.length ≤ 3584 ∧ (80 ≤ 0x300 ∧ 0x300 < 4096 ∧ ¬ (512 ≤ 0x300 ∧ 0x300 < 512 + boot.image.length)) ∧
    (0x300, 0x55#8) ∈ boot.memInit ∧ (∀ u, (0x300, u) ∈ boot.memInit → u = 0x55#8) ∧
    ∀ u, (0x301, u) ∉ boot.memInit :=
  ⟨⟨List.replicate 3584 0, List.length_replicate, rfl⟩, by decide, by decide, by decide, by simp [boot], by simp [boot]⟩

/-- The first and the last address that have a free MEM_INIT byte at reset. -/
theorem witness_ResetStateValues : 80 ≤ 80 ∧ 80 ≤ 4095 := by decide

theorem witness_OverlongImageStartsNoSession : ∃ l : List Byte, l.length = 3585 ∧
    (asked [.reset { boot with image := l }]).schedule = .reset { boot with image := l } :: [] :=
  ⟨List.replicate 3585 0, List.length_replicate, rfl⟩

/-- A running state and a halted one that meet the invariant and have a next state. -/
theorem witness_StepKeepsInvariant :
    (∃ t, Invariant (State.reset.withFetchWord 16 0x00EE) ∧ step (State.reset.withFetchWord 16 0x00EE) = .next t) ∧
    ∃ t, Invariant (({ State.reset with pc := 4095 } : State).raise .fetchBounds 0 |>.setSchedule [.clearRedraw]) ∧
      step (({ State.reset with pc := 4095 } : State).raise .fetchBounds 0 |>.setSchedule [.clearRedraw]) = .next t :=
  ⟨⟨_, ⟨by decide, by decide, by decide, by decide, by decide⟩, rfl⟩,
    ⟨_, ⟨by decide, by decide, by decide, by decide, by decide⟩, rfl⟩⟩

/-- For the statements about every next state of exec: a form that stores, one that faults, one that waits. -/
theorem witness_InstructionsWriteOnlyTheirOwn :
    (∃ t, exec (.ldBcd 0) (withIndex 4093) = .next t) ∧ (∃ t, exec (.ldBcd 0) (withIndex 4094) = .next t) ∧
    ∃ t, exec (.ldVKey 0) State.reset = .next t := ⟨⟨_, rfl⟩, ⟨_, rfl⟩, ⟨_, rfl⟩⟩

/-- The addresses beside the stored ones, for FX33 and FX55, and any address for a form that stores nothing. -/
theorem witness_StoresStayInTheirRange :
    ((∃ t, exec (.ldBcd 0) (withIndex 4093) = .next t) ∧ ¬ (4093 ≤ 4092 ∧ 4092 < 4093 + storedCount (.ldBcd 0)) ∧
      ¬ (4093 ≤ 4096 ∧ 4096 < 4093 + storedCount (.ldBcd 0))) ∧
    ((∃ t, exec (.storeRegs 2) (withIndex 0x400) = .next t) ∧
      ¬ (0x400 ≤ 0x403 ∧ 0x403 < 0x400 + storedCount (.storeRegs 2))) ∧
    ((∃ t, exec .cls (withIndex 0x400) = .next t) ∧ ¬ (0x400 ≤ 0x400 ∧ 0x400 < 0x400 + storedCount .cls)) :=
  ⟨⟨⟨_, rfl⟩, by decide, by decide⟩, ⟨⟨_, rfl⟩, by decide⟩, ⟨⟨_, rfl⟩, by decide⟩⟩

/-- The greatest pc and stack entry, and a return. -/
theorem witness_NextPcIsExact :
    let s : State := { withDepth 16 with pc := 4094, stack := Vector.replicate 16 4094#16 }
    s.pc.toNat ≤ 4094 ∧ (∀ j : Fin 16, s.stack[j].toNat ≤ 4094) ∧ ∃ t, exec .ret s = .next t :=
  ⟨by decide, by decide, ⟨_, rfl⟩⟩

theorem witness_SysAndUnrecognizedOnlyAdvance :
    ((0x0E1#12 : Addr12) ≠ 0x0E0#12 ∧ (0x0E1#12 : Addr12) ≠ 0x0EE#12) ∧ unrecognizedWord 0x5001#16 = true ∧
    unrecognizedWord 0x8008#16 = true ∧ unrecognizedWord 0x900F#16 = true ∧ unrecognizedWord 0xE09D#16 = true ∧
    unrecognizedWord 0xFFFF#16 = true := by decide

theorem witness_CallPushesItsAddress :
    (withDepth 0).sp.val ≠ 16 ∧ (withDepth 15).sp.val ≠ 16 ∧ (withDepth 16).sp.val = 16 := by decide

theorem witness_ReturnResumesBehindTheCall :
    (withDepth 1).sp.val = (0 : Fin 16).val + 1 ∧ (withDepth 16).sp.val = (15 : Fin 16).val + 1 ∧
    (withDepth 0).sp.val = 0 := by decide

theorem witness_CallThenReturnComesBack :
    (withDepth 15).sp.val ≠ 16 ∧ (14 : Fin 16).val < (withDepth 15).sp.val := by decide

/-- Equal and unequal operands, and a low nibble that makes the word unrecognized. -/
theorem witness_RegisterSkipsTakeTheirCondition :
    (regs [(3, 0x42)] State.reset).reg 3 = 0x42 ∧ (regs [(3, 0x41)] State.reset).reg 3 ≠ 0x42 ∧
    (regs [(1, 7), (2, 7)] State.reset).reg 1 = (regs [(1, 7), (2, 7)] State.reset).reg 2 ∧
    (regs [(1, 7), (2, 8)] State.reset).reg 1 ≠ (regs [(1, 7), (2, 8)] State.reset).reg 2 ∧ (0x1#4 : BitVec 4) ≠ 0x0#4 := by
  decide

/-- A destination that is not VF, with the sum at 255 and at 256; and VF itself. -/
theorem witness_AddWritesCarryThenSum :
    (0#4 : Reg) ≠ 15#4 ∧
    ¬ 256 ≤ ((regs [(0, 255)] State.reset).reg 0).toNat + ((regs [(0, 255)] State.reset).reg 1).toNat ∧
    256 ≤ ((regs [(0, 255), (1, 1)] State.reset).reg 0).toNat + ((regs [(0, 255), (1, 1)] State.reset).reg 1).toNat := by decide

/-- A destination that is not VF, with a borrow, and with equal operands. -/
theorem witness_SubtractionsWriteNotBorrowThenDifference :
    (0#4 : Reg) ≠ 15#4 ∧
    ((regs [(0, 5), (1, 6)] State.reset).reg 0).toNat < ((regs [(0, 5), (1, 6)] State.reset).reg 1).toNat ∧
    ¬ ((regs [(0, 5), (1, 5)] State.reset).reg 0).toNat < ((regs [(0, 5), (1, 5)] State.reset).reg 1).toNat := by decide

theorem witness_ShiftsWriteBitOutThenShift : (14#4 : Reg) ≠ 15#4 ∧ (15#4 : Reg) = 15#4 := by decide

theorem witness_BcdStoresThreeDigits :
    (withIndex 4093).i.toNat + 2 ≤ 4095 ∧ 4095 < (withIndex 4094).i.toNat + 2 := by decide

theorem witness_StoreRegistersToIndex :
    (withIndex 4080).i.toNat + (15#4 : Reg).toNat ≤ 4095 ∧ 4095 < (withIndex 4081).i.toNat + (15#4 : Reg).toNat ∧
    (15#4 : Reg).toNat ≤ (15#4 : Reg).toNat := by decide

theorem witness_LoadRegistersFromIndex :
    (withIndex 4095).i.toNat + (0#4 : Reg).toNat ≤ 4095 ∧ 4095 < (withIndex 4096).i.toNat + (0#4 : Reg).toNat ∧
    (0#4 : Reg).toNat ≤ (0#4 : Reg).toNat := by decide

theorem witness_StoreThenLoadRestoresRegisters : (withIndex 4080).i.toNat + (15#4 : Reg).toNat ≤ 4095 := by decide

/-- V-IDX-18, and the last pc that has a next word. -/
theorem witness_StoredWordIsTheNextInstruction :
    let s : State := { State.reset with i := 0x202 }
    let e : State := { State.reset with pc := 4092, i := 4094 }
    (s.halted = false ∧ s.schedule = [] ∧ 1 ≤ (1#4 : Reg).toNat ∧ s.i = s.pc + 2 ∧ s.pc.toNat ≤ 4092 ∧
      s.i.toNat + (1#4 : Reg).toNat ≤ 4095) ∧
    (e.halted = false ∧ e.schedule = [] ∧ e.i = e.pc + 2 ∧ e.pc.toNat ≤ 4092 ∧ e.i.toNat + (1#4 : Reg).toNat ≤ 4095) := by
  decide

/-- Latched coordinates from VF, per-pixel ones from other registers, a sprite that ends at the last address, a pixel that
its set bit lands on and one that it does not, with the pixel on and with it off. -/
theorem witness_DrawFlipsTheSpritePixels :
    let s := bytes 4095 [0x80] (withIndex 4095)
    (s.params.drwCoordRead = .latched ∨ ((15#4 : Reg) ≠ 15#4 ∧ (15#4 : Reg) ≠ 15#4)) ∧
    ((collision .perPixel).params.drwCoordRead = .latched ∨ ((0#4 : Reg) ≠ 15#4 ∧ (14#4 : Reg) ≠ 15#4)) ∧
    s.i.toNat + (1#4 : BitVec 4).toNat ≤ 4096 ∧ spriteHits s 0 1 1 0 0 ∧ s.pixel 0 0 = false ∧
    (lit [(0, 0)] s).pixel 0 0 = true ∧ ¬ spriteHits s 0 1 1 31 63 := by
  refine ⟨by decide, by decide, by decide, ⟨0, by decide, 0, by decide, by decide, by decide, by decide⟩, by decide,
    by decide, ?_⟩
  rintro ⟨row, hr, col, hc, -, h, -⟩
  have : row = 0 := by omega
  subst this
  exact absurd h (by decide)

/-- An empty sprite at any I, and a sprite that ends at the last address. -/
theorem witness_DrawFlagTellsPixelsTurnedOff :
    ((0#4 : BitVec 4) = 0#4 ∨ (withIndex 0xFFFF).i.toNat + (0#4 : BitVec 4).toNat ≤ 4096) ∧
    ((15#4 : BitVec 4) = 0#4 ∨ (withIndex 4081).i.toNat + (15#4 : BitVec 4).toNat ≤ 4096) := by decide

/-- The sprite of V-DISP-14 under PER_PIXEL with y = 15: with no pixel on, with its first position on a pixel that is on
(V-DISP-14 itself), and with the first collision in its second row; an empty sprite at any I. -/
theorem witness_PerPixelDrawMovesBehindTheFirstCollision :
    let blank : State := { bytes 0x300 [0xC0, 0x80] State.reset with
      i := 0x300, params := { drwCoordRead := .perPixel, keyChoice := [] } }
    let later := lit [(1, 0)] blank
    (blank.params.drwCoordRead = .perPixel ∧ blank.i.toNat + (2#4 : BitVec 4).toNat ≤ 4096 ∧
      ∀ m, m < 16 → ¬ meetsPixelOn blank 0 15 m) ∧
    ((collision .perPixel).params.drwCoordRead = .perPixel ∧ meetsPixelOn (collision .perPixel) 0 15 0 ∧
      ∀ m, m < 0 → ¬ meetsPixelOn (collision .perPixel) 0 15 m) ∧
    (8 < 16 ∧ meetsPixelOn later 0 15 8 ∧ ∀ m, m < 8 → ¬ meetsPixelOn later 0 15 m) ∧
    ((0#4 : BitVec 4) = 0#4 ∨ (withIndex 0xFFFF).i.toNat + (0#4 : BitVec 4).toNat ≤ 4096) := by
  refine ⟨⟨rfl, by decide, ?_⟩, ⟨rfl, ⟨0, 0, ⟨by decide, by decide, by decide⟩, by decide⟩, by omega⟩,
    ⟨by decide, ⟨1, 0, ⟨by decide, by decide, by decide⟩, by decide⟩, ?_⟩, .inl rfl⟩
  · rintro m - ⟨r, c, -, h⟩
    revert h
    simp [State.pixel, bytes, State.writeBytes, State.reset]
  · rintro m hm ⟨r, c, ⟨-, hr, -⟩, h⟩
    have hr : r = 0 := Fin.ext (by rw [hr, Nat.div_eq_of_lt hm]; rfl)
    subst hr
    exact absurd h ((by decide : ∀ c, ¬ (lit [(1, 0)] State.reset).pixel 0 c = true) c)

theorem witness_DrawBeyondMemoryFaults :
    0 < (1#4 : BitVec 4).toNat ∧ 4095 < (withIndex 4096).i.toNat + (1#4 : BitVec 4).toNat - 1 ∧
    4095 < (withIndex 4082).i.toNat + (15#4 : BitVec 4).toNat - 1 := by decide

theorem witness_DrawTwiceRestoresDisplay :
    (0#4 : Reg) ≠ 15#4 ∧ (14#4 : Reg) ≠ 15#4 ∧ (withIndex 4081).i.toNat + (15#4 : BitVec 4).toNat ≤ 4096 := by decide

theorem witness_KeySkipsTestTheNamedKey :
    ((regs [(1, 15)] State.reset).reg 1).toNat = (15 : Key).val ∧ 15 < ((regs [(1, 16)] State.reset).reg 1).toNat := by decide

/-- No key held; two keys held, with the default choice and with a table that lists them. -/
theorem witness_KeyWaitHoldsOrTakesAHeldKey :
    let s := held [9, 3] State.reset
    let t : State := { s with params := { drwCoordRead := .latched, keyChoice := [([3, 9], 9)] } }
    (∀ k, State.reset.key k = false) ∧ s.key 3 = true ∧ s.key 9 = true ∧ s.params.keyChoice = [] ∧
    t.params.keyChoice.lookup t.heldKeys = some 9 ∧ t.key 9 = true ∧ (∃ k, t.key k = true) :=
  ⟨by decide, by decide, by decide, by decide, by decide, by decide, ⟨9, by decide⟩⟩

theorem witness_SoundTimerAndRedrawAreNotObserved :
    (∃ t, exec (.ldStV 0) State.reset = .next t) ∧ ∃ t, exec .cls State.reset = .next t := ⟨⟨_, rfl⟩, ⟨_, rfl⟩⟩

/-- The entry at SP, under a CALL and under a RET. -/
theorem witness_StaleStackEntriesAreNotObserved :
    (withDepth 15).sp.val ≤ (15 : Fin 16).val ∧ (∃ t, exec (.call 0x300#12) (withDepth 15) = .next t) ∧
    ∃ t, exec .ret (withDepth 15) = .next t := ⟨by decide, ⟨_, rfl⟩, ⟨_, rfl⟩⟩

theorem witness_TickCommutesWithOtherForms :
    (∀ x, Instr.addImm 0 1 ≠ .ldVDt x ∧ Instr.addImm 0 1 ≠ .ldDtV x ∧ Instr.addImm 0 1 ≠ .ldStV x) ∧
    ∃ t, exec (.addImm 0 1) { State.reset with dt := 1 } = .next t := ⟨by decide, ⟨_, rfl⟩⟩

/-- V-FLOW-6, and the last address that holds an idle loop. -/
theorem witness_IdleLoopStepChangesNothing :
    let s := bytes 0x20A [0x12, 0x0A] { State.reset with pc := 0x20A }
    let e := bytes 4094 [0x1F, 0xFE] { State.reset with pc := 4094 }
    (s.halted = false ∧ s.schedule = [] ∧ s.idleLoop) ∧ (e.halted = false ∧ e.schedule = [] ∧ e.idleLoop) :=
  ⟨⟨by decide, by decide, by decide, by decide⟩, ⟨by decide, by decide, by decide, by decide⟩⟩

end Sys2Proof.Tests
end

/-! ## Proofs: register loads, the immediate add and the bitwise forms (spec/43_alu.md R141..R146)

Each of these forms answers `writeResult` of its destination and of the value that its rule gives, and no flag, so that
`writeResult_spec` gives the next pc and the frame of all of them. -/

namespace Sys2Proof

/-! ### The words of the forms (R85, R89) -/

section
variable (x y : Reg) (kk : Byte)

theorem decode_ldImm_word : decode (wordXKK 0x6#4 x kk) = .ldImm x kk := by simp [decode]
theorem decode_addImm_word : decode (wordXKK 0x7#4 x kk) = .addImm x kk := by simp [decode]

/-- The words of class 8 are told apart by their low nibble. -/
theorem decode_class8_word (n : BitVec 4) : decode (wordXYN 0x8#4 x y n) = decodeClass8 (wordXYN 0x8#4 x y n) := by
  simp [decode]

theorem decode_ldReg_word : decode (wordXYN 0x8#4 x y 0x0#4) = .ldReg x y := by simp [decode_class8_word, decodeClass8]
theorem decode_orReg_word : decode (wordXYN 0x8#4 x y 0x1#4) = .orReg x y := by simp [decode_class8_word, decodeClass8]
theorem decode_andReg_word : decode (wordXYN 0x8#4 x y 0x2#4) = .andReg x y := by simp [decode_class8_word, decodeClass8]
theorem decode_xorReg_word : decode (wordXYN 0x8#4 x y 0x3#4) = .xorReg x y := by simp [decode_class8_word, decodeClass8]

end

namespace Machine

/-! ### The meanings of the forms as `writeResult` -/

section
variable (x y : Reg) (kk : Byte) (s : State)

theorem exec_ldImm : exec (.ldImm x kk) s = writeResult x kk s := rfl
theorem exec_addImm : exec (.addImm x kk) s = writeResult x (s.reg x + kk) s := rfl
theorem exec_ldReg : exec (.ldReg x y) s = writeResult x (s.reg y) s := rfl
theorem exec_orReg : exec (.orReg x y) s = writeResult x (s.reg x ||| s.reg y) s := rfl
theorem exec_andReg : exec (.andReg x y) s = writeResult x (s.reg x &&& s.reg y) s := rfl
theorem exec_xorReg : exec (.xorReg x y) s = writeResult x (s.reg x ^^^ s.reg y) s := rfl

end

/-- A form that answers `writeResult x b` leaves in V[x] a value with every property of `b`, advances pc by 2, and
changes nothing else. -/
theorem next_of_exec_eq_writeResult {i : Instr} {x : Reg} {b : Byte} {s : State} (P : Byte → Prop)
    (hexec : exec i s = writeResult x b s) (hb : P b) :
    ∃ t, exec i s = .next t ∧ P (t.reg x) ∧ t.pc = s.pc + 2 ∧ Frame s t (· = x) [.pc] := by
  obtain ⟨t, hnext, hreg, hpc, hframe⟩ := writeResult_spec x b s
  exact ⟨t, hexec.trans hnext, hreg.symm ▸ hb, hpc, hframe⟩

/-- Settles O29: the three forms answer `writeResult` of kk, of the sum and of V[y]. -/
theorem loadsAndImmediateAddWriteOneRegister : Obligations.LoadsAndImmediateAddWriteOneRegister := by
  intro x y kk s
  refine ⟨⟨decode_ldImm_word x kk, ?_⟩, ⟨decode_addImm_word x kk, ?_⟩, ⟨decode_ldReg_word x y, ?_⟩⟩
  · exact next_of_exec_eq_writeResult (· = kk) (exec_ldImm x kk s) rfl
  · exact next_of_exec_eq_writeResult (·.toNat = ((s.reg x).toNat + kk.toNat) % 256) (exec_addImm x kk s)
      (BitVec.toNat_add _ _)
  · exact next_of_exec_eq_writeResult (· = s.reg y) (exec_ldReg x y s) rfl

/-- Settles O30: the three forms answer `writeResult` of the bitwise operation, whose bits are those of its operands
combined. -/
theorem logicWorksBitByBit : Obligations.LogicWorksBitByBit := by
  intro x y s
  refine ⟨⟨decode_orReg_word x y, ?_⟩, ⟨decode_andReg_word x y, ?_⟩, ⟨decode_xorReg_word x y, ?_⟩⟩
  · exact next_of_exec_eq_writeResult (fun b => ∀ k, b.getLsbD k = ((s.reg x).getLsbD k || (s.reg y).getLsbD k))
      (exec_orReg x y s) fun _ => BitVec.getLsbD_or
  · exact next_of_exec_eq_writeResult (fun b => ∀ k, b.getLsbD k = ((s.reg x).getLsbD k && (s.reg y).getLsbD k))
      (exec_andReg x y s) fun _ => BitVec.getLsbD_and
  · exact next_of_exec_eq_writeResult (fun b => ∀ k, b.getLsbD k = ((s.reg x).getLsbD k != (s.reg y).getLsbD k))
      (exec_xorReg x y s) fun _ => BitVec.getLsbD_xor

end Machine

end Sys2Proof

/-! ## Proofs: the index loads (spec/44_index_memory.md R160, R162)

A form that loads I answers `(s.setIndex w).seq` of the word `w` that its rule gives, so that one lemma gives the next
pc and the frame, and what is left of each rule is the value of its word. -/

namespace Sys2Proof

/-! ### The words of the forms (R85, R91) -/

theorem decode_ldIndex_word (nnn : Addr12) : decode (wordNNN 0xA#4 nnn) = .ldIndex nnn := by simp [decode]

/-- The words of class F are told apart by their low byte. -/
theorem decode_classF_word (x : Reg) (kk : Byte) : decode (wordXKK 0xF#4 x kk) = decodeClassF (wordXKK 0xF#4 x kk) := by
  simp [decode]

theorem decode_ldFont_word (x : Reg) : decode (wordXKK 0xF#4 x 0x29#8) = .ldFont x := by
  simp [decode_classF_word, decodeClassF]

namespace Machine

/-! ### The values of the operands -/

theorem toNat_addrOperand (nnn : Addr12) : (addrOperand nnn).toNat = nnn.toNat :=
  BitVec.toNat_setWidth_of_le (by decide)

theorem toNat_wideOperand (b : Byte) : (wideOperand b).toNat = b.toNat :=
  BitVec.toNat_setWidth_of_le (by decide)

/-- The product is exact (R162): at most 1275, it does not reach 65536. -/
theorem toNat_glyphAddress (b : Byte) : (glyphAddress b).toNat = b.toNat * 5 := by
  have hlt : b.toNat * 5 < 65536 := by have := b.isLt; omega
  calc (glyphAddress b).toNat = (wideOperand b).toNat * 5 % 65536 := BitVec.toNat_mul _ _
    _ = b.toNat * 5 % 65536 := by rw [toNat_wideOperand]
    _ = b.toNat * 5 := Nat.mod_eq_of_lt hlt

/-! ### The meanings of the forms as a load of I -/

theorem exec_ldIndex (nnn : Addr12) (s : State) : exec (.ldIndex nnn) s = .next (s.setIndex (addrOperand nnn)).seq := rfl

theorem exec_ldFont (x : Reg) (s : State) : exec (.ldFont x) s = .next (s.setIndex (glyphAddress (s.reg x))).seq := rfl

/-- Loading I and going on to the next word changes pc and I, and nothing else. -/
theorem frame_setIndex_seq (s : State) (w : Word) : Frame s (s.setIndex w).seq noReg [.pc, .index] := by
  refine ⟨fun r _ => by simp, fun p hp => ?_⟩
  cases p <;> simp_all [Part.same]

/-- A form that loads I with a word of value `n` leaves `n` there, advances pc by 2, and changes nothing else. -/
theorem next_of_exec_eq_setIndex {i : Instr} {s : State} {w : Word} {n : Nat}
    (hexec : exec i s = .next (s.setIndex w).seq) (hw : w.toNat = n) :
    ∃ t, exec i s = .next t ∧ t.i.toNat = n ∧ t.pc = s.pc + 2 ∧ Frame s t noReg [.pc, .index] :=
  ⟨_, hexec, hw, rfl, frame_setIndex_seq s w⟩

/-- Settles O35: the two forms load I with nnn and with the glyph address of V[x], which is five times V[x]. -/
theorem indexLoadsWriteIndexAlone : Obligations.IndexLoadsWriteIndexAlone := by
  intro x nnn s
  refine ⟨⟨decode_ldIndex_word nnn, ?_⟩, ⟨decode_ldFont_word x, ?_⟩⟩
  · exact next_of_exec_eq_setIndex (exec_ldIndex nnn s) (toNat_addrOperand nnn)
  · exact next_of_exec_eq_setIndex (exec_ldFont x s) (toNat_glyphAddress (s.reg x))

end Machine

end Sys2Proof

/-! ## Proofs: CLS (spec/45_display.md R170, R172)

CLS answers `(s.clearDisplay.setRedraw true).seq`: the blank buffer stands for every state alike, and redraw is set
without a look at what was on before. -/

namespace Sys2Proof

theorem decode_cls_word : decode 0x00E0#16 = .cls := by decide

namespace Machine

theorem exec_cls (s : State) : exec .cls s = .next (s.clearDisplay.setRedraw true).seq := rfl

/-- Every pixel is off after CLS: setting redraw and going on to the next word leave the cleared buffer as it is. -/
theorem pixel_clearDisplay_setRedraw_seq (s : State) (b : Bool) (r : Fin 32) (c : Fin 64) :
    (s.clearDisplay.setRedraw b).seq.pixel r c = false := by
  calc (s.clearDisplay.setRedraw b).seq.pixel r c = s.clearDisplay.pixel r c := by simp
    _ = false := State.pixel_clearDisplay s r c

/-- Clearing the buffer, writing redraw and going on to the next word change pc, the display and redraw, and nothing
else: VF is among the registers kept (R170). -/
theorem frame_clearDisplay_setRedraw_seq (s : State) (b : Bool) :
    Frame s (s.clearDisplay.setRedraw b).seq noReg [.pc, .display, .redraw] := by
  refine ⟨fun r _ => by simp, fun p hp => ?_⟩
  cases p <;> simp_all [Part.same]

/-- Settles O42: the state that CLS answers has the blank buffer and redraw set, whatever state it started from. -/
theorem clearTurnsEveryPixelOff : Obligations.ClearTurnsEveryPixelOff := by
  refine ⟨decode_cls_word, fun s => ⟨_, exec_cls s, ?_, ?_, ?_, ?_⟩⟩
  · exact pixel_clearDisplay_setRedraw_seq s true
  · exact State.setRedraw_redraw s.clearDisplay true
  · rfl
  · exact frame_clearDisplay_setRedraw_seq s true

end Machine

end Sys2Proof

/-! ## Proofs: the timer transfers (spec/46_keys_timers.md R183..R185)

FX07 answers `writeResult` of DT, so that the lemma about register writes covers it. FX15 and FX18 set a timer to V[x]
and go on to the next word; what is left of each is the frame of that timer's update. -/

namespace Sys2Proof

/-! ### The words of the forms (R91) -/

section
variable (x : Reg)

theorem decode_ldVDt_word : decode (wordXKK 0xF#4 x 0x07#8) = .ldVDt x := by simp [decode_classF_word, decodeClassF]
theorem decode_ldDtV_word : decode (wordXKK 0xF#4 x 0x15#8) = .ldDtV x := by simp [decode_classF_word, decodeClassF]
theorem decode_ldStV_word : decode (wordXKK 0xF#4 x 0x18#8) = .ldStV x := by simp [decode_classF_word, decodeClassF]

end

namespace Machine

/-! ### The meanings of the forms -/

section
variable (x : Reg) (s : State)

theorem exec_ldVDt : exec (.ldVDt x) s = writeResult x s.dt s := rfl
theorem exec_ldDtV : exec (.ldDtV x) s = .next (s.setDelay (s.reg x)).seq := rfl
theorem exec_ldStV : exec (.ldStV x) s = .next (s.setSound (s.reg x)).seq := rfl

end

/-! ### The frames of the timer updates -/

/-- Setting DT and going on to the next word changes pc and DT, and nothing else. -/
theorem frame_setDelay_seq (s : State) (b : Byte) : Frame s (s.setDelay b).seq noReg [.pc, .delay] := by
  refine ⟨fun r _ => by simp, fun p hp => ?_⟩
  cases p <;> simp_all [Part.same]

/-- Setting ST and going on to the next word changes pc and ST, and nothing else. -/
theorem frame_setSound_seq (s : State) (b : Byte) : Frame s (s.setSound b).seq noReg [.pc, .sound] := by
  refine ⟨fun r _ => by simp, fun p hp => ?_⟩
  cases p <;> simp_all [Part.same]

/-- Settles O49: FX07 is a register write of DT, and FX15 and FX18 are the updates of DT and of ST to V[x]. -/
theorem timerTransfersMoveOneByte : Obligations.TimerTransfersMoveOneByte := by
  intro x s
  refine ⟨⟨decode_ldVDt_word x, ?_⟩, ⟨decode_ldDtV_word x, ?_⟩, ⟨decode_ldStV_word x, ?_⟩⟩
  · exact next_of_exec_eq_writeResult (· = s.dt) (exec_ldVDt x s) rfl
  · exact ⟨_, exec_ldDtV x s, rfl, rfl, frame_setDelay_seq s (s.reg x)⟩
  · exact ⟨_, exec_ldStV x s, rfl, rfl, frame_setSound_seq s (s.reg x)⟩

end Machine

end Sys2Proof

/-! ## Proofs: the timer countdown engine (spec/60_exceptions.md R214)

A running machine whose first request is a tick answers `tick` of the state that is left with the other requests. Each
timer then reads one less than it did, and 0 where it was 0 (`toNat_countDown`, whose subtraction stops at 0); what else
the tick touches is told by its frame. -/

namespace Sys2Proof.Machine

/-! ### What a tick leaves -/

theorem step_tick {s : State} {rest : List Transaction} (hrun : s.halted = false) (hsched : s.schedule = .tick :: rest) :
    step s = .next (tick (s.setSchedule rest)) :=
  step_running hrun (.inl hsched)

theorem toNat_countDown_of_zero {b : Byte} (hb : b.toNat = 0) : (countDown b).toNat = 0 := by
  rw [toNat_countDown, hb]

/-- A tick that is served from the schedule changes the two timers and the schedule, and nothing else. -/
theorem frame_tick_setSchedule (s : State) (rest : List Transaction) :
    Frame s (tick (s.setSchedule rest)) noReg [.delay, .sound, .schedule] := by
  refine ⟨fun r _ => by simp, fun p hp => ?_⟩
  cases p <;> simp_all [Part.same]

/-- Settles O13: the step answers the tick of the state with the served request gone, and a tick counts both timers
down. -/
theorem tickCountsDown : Obligations.TickCountsDown := by
  intro s rest hrun hsched
  refine ⟨tick (s.setSchedule rest), step_tick hrun hsched, ?_, ?_, ?_, ?_, ?_, ?_⟩
  · exact toNat_countDown_of_zero
  · exact fun _ => toNat_countDown s.dt
  · exact toNat_countDown_of_zero
  · exact fun _ => toNat_countDown s.st
  · rfl
  · exact frame_tick_setSchedule s rest

end Sys2Proof.Machine

/-! ## Proofs: the decoder and the encoder (spec/30_encoding.md R80..R95)

The word of every form decodes to the form, which settles one direction of the round trip; in the other, a word is put
together from its fields again, class by class. The table of R92 is then the well-formedness of UNRECOGNIZED. -/

namespace Sys2Proof

/-! ### The words of the other forms (R85..R91) -/

section
variable (x y : Reg) (n : BitVec 4) (kk : Byte) (nnn : Addr12)

theorem decode_ret_word : decode 0x00EE#16 = .ret := by decide

/-- SYS is the class 0 word that is neither of the two fixed ones (R86). -/
theorem decode_sys_word (hcls : nnn ≠ 0x0E0#12) (hret : nnn ≠ 0x0EE#12) : decode (wordNNN 0x0#4 nnn) = .sys nnn := by
  have hword : ∀ fixed : Addr12, nnn ≠ fixed → wordNNN 0x0#4 nnn ≠ wordNNN 0x0#4 fixed := fun fixed hne heq =>
    hne (by simpa using congrArg fieldNNN heq)
  have hne_cls : wordNNN 0x0#4 nnn ≠ 0x00E0#16 := hword 0x0E0#12 hcls
  have hne_ret : wordNNN 0x0#4 nnn ≠ 0x00EE#16 := hword 0x0EE#12 hret
  simp [decode, decodeClass0, hne_cls, hne_ret]

theorem decode_jp_word : decode (wordNNN 0x1#4 nnn) = .jp nnn := by simp [decode]
theorem decode_call_word : decode (wordNNN 0x2#4 nnn) = .call nnn := by simp [decode]
theorem decode_jpV0_word : decode (wordNNN 0xB#4 nnn) = .jpV0 nnn := by simp [decode]

theorem decode_seImm_word : decode (wordXKK 0x3#4 x kk) = .seImm x kk := by simp [decode]
theorem decode_sneImm_word : decode (wordXKK 0x4#4 x kk) = .sneImm x kk := by simp [decode]
theorem decode_seReg_word : decode (wordXYN 0x5#4 x y 0x0#4) = .seReg x y := by simp [decode]
theorem decode_sneReg_word : decode (wordXYN 0x9#4 x y 0x0#4) = .sneReg x y := by simp [decode]

theorem decode_addReg_word : decode (wordXYN 0x8#4 x y 0x4#4) = .addReg x y := by
  simp [decode_class8_word, decodeClass8]
theorem decode_subReg_word : decode (wordXYN 0x8#4 x y 0x5#4) = .subReg x y := by
  simp [decode_class8_word, decodeClass8]
theorem decode_shr_word : decode (wordXYN 0x8#4 x y 0x6#4) = .shr x y := by simp [decode_class8_word, decodeClass8]
theorem decode_subnReg_word : decode (wordXYN 0x8#4 x y 0x7#4) = .subnReg x y := by
  simp [decode_class8_word, decodeClass8]
theorem decode_shl_word : decode (wordXYN 0x8#4 x y 0xE#4) = .shl x y := by simp [decode_class8_word, decodeClass8]

theorem decode_rnd_word : decode (wordXKK 0xC#4 x kk) = .rnd x kk := by simp [decode]
theorem decode_drw_word : decode (wordXYN 0xD#4 x y n) = .drw x y n := by simp [decode]

/-- The words of class E are told apart by their low byte. -/
theorem decode_classE_word : decode (wordXKK 0xE#4 x kk) = decodeClassE (wordXKK 0xE#4 x kk) := by simp [decode]

theorem decode_skp_word : decode (wordXKK 0xE#4 x 0x9E#8) = .skp x := by simp [decode_classE_word, decodeClassE]
theorem decode_sknp_word : decode (wordXKK 0xE#4 x 0xA1#8) = .sknp x := by simp [decode_classE_word, decodeClassE]

theorem decode_ldVKey_word : decode (wordXKK 0xF#4 x 0x0A#8) = .ldVKey x := by simp [decode_classF_word, decodeClassF]
theorem decode_addIndex_word : decode (wordXKK 0xF#4 x 0x1E#8) = .addIndex x := by
  simp [decode_classF_word, decodeClassF]
theorem decode_ldBcd_word : decode (wordXKK 0xF#4 x 0x33#8) = .ldBcd x := by simp [decode_classF_word, decodeClassF]
theorem decode_storeRegs_word : decode (wordXKK 0xF#4 x 0x55#8) = .storeRegs x := by
  simp [decode_classF_word, decodeClassF]
theorem decode_loadRegs_word : decode (wordXKK 0xF#4 x 0x65#8) = .loadRegs x := by
  simp [decode_classF_word, decodeClassF]

end

/-! ### The unrecognized words (R92) -/

/-- The table of R92 in the fields of the word. -/
theorem unrecognizedWord_iff (op : Word) :
    unrecognizedWord op = true ↔
      (opClass op = 0x5#4 ∧ fieldN op ≠ 0x0#4) ∨
      (opClass op = 0x8#4 ∧ 8 ≤ (fieldN op).toNat ∧ fieldN op ≠ 0xE#4) ∨
      (opClass op = 0x9#4 ∧ fieldN op ≠ 0x0#4) ∨
      (opClass op = 0xE#4 ∧ fieldKK op ≠ 0x9E#8 ∧ fieldKK op ≠ 0xA1#8) ∨
      (opClass op = 0xF#4 ∧
        fieldKK op ∉ [0x07#8, 0x0A#8, 0x15#8, 0x18#8, 0x1E#8, 0x29#8, 0x33#8, 0x55#8, 0x65#8]) := by
  have hrow8 : ∀ n : BitVec 4, n ∈ [0x8#4, 0x9#4, 0xA#4, 0xB#4, 0xC#4, 0xD#4, 0xF#4] ↔ 8 ≤ n.toNat ∧ n ≠ 0xE#4 := by
    decide
  have hopen : unrecognizedWord op =
      ((opClass op == 0x5#4 && fieldN op != 0x0#4)
      || (opClass op == 0x8#4 && [0x8#4, 0x9#4, 0xA#4, 0xB#4, 0xC#4, 0xD#4, 0xF#4].contains (fieldN op))
      || (opClass op == 0x9#4 && fieldN op != 0x0#4)
      || (opClass op == 0xE#4 && !([0x9E#8, 0xA1#8].contains (fieldKK op)))
      || (opClass op == 0xF#4 &&
        !([0x07#8, 0x0A#8, 0x15#8, 0x18#8, 0x1E#8, 0x29#8, 0x33#8, 0x55#8, 0x65#8].contains (fieldKK op)))) := rfl
  simp only [hopen, Bool.or_eq_true, Bool.and_eq_true, beq_iff_eq, bne_iff_ne, List.contains_iff_mem, hrow8,
    Bool.not_eq_true', ← Bool.not_eq_true, or_assoc]
  simp

theorem decodeClass8_of_unrecognized {op : Word} (hn : 8 ≤ (fieldN op).toNat) (hne : fieldN op ≠ 0xE#4) :
    decodeClass8 op = .unrecognized op := by
  unfold decodeClass8
  split <;> simp_all

theorem decodeClassE_of_unrecognized {op : Word} (hskp : fieldKK op ≠ 0x9E#8) (hsknp : fieldKK op ≠ 0xA1#8) :
    decodeClassE op = .unrecognized op := by
  unfold decodeClassE
  split <;> simp_all

theorem decodeClassF_of_unrecognized {op : Word}
    (hkk : fieldKK op ∉ [0x07#8, 0x0A#8, 0x15#8, 0x18#8, 0x1E#8, 0x29#8, 0x33#8, 0x55#8, 0x65#8]) :
    decodeClassF op = .unrecognized op := by
  unfold decodeClassF
  split <;> simp_all

theorem decode_unrecognized_word {op : Word} (h : unrecognizedWord op = true) : decode op = .unrecognized op := by
  rcases (unrecognizedWord_iff op).1 h with
    ⟨hclass, hn⟩ | ⟨hclass, hn, hne⟩ | ⟨hclass, hn⟩ | ⟨hclass, hskp, hsknp⟩ | ⟨hclass, hkk⟩
  · simp [decode, hclass, hn]
  · simp [decode, hclass, decodeClass8_of_unrecognized hn hne]
  · simp [decode, hclass, hn]
  · simp [decode, hclass, decodeClassE_of_unrecognized hskp hsknp]
  · simp [decode, hclass, decodeClassF_of_unrecognized hkk]

/-! ### From a word to its form and back -/

/-- The form that a decoder gives for a word stands for that word: it is well formed, and its encoding is the word. -/
def StandsFor (i : Instr) (op : Word) : Prop := i.wellFormed = true ∧ encode i = op

section
variable {op : Word} {c : BitVec 4}

theorem wordNNN_of_opClass (h : opClass op = c) : wordNNN c (fieldNNN op) = op := h ▸ wordNNN_fields op

theorem wordXKK_of_opClass {kk : Byte} (h : opClass op = c) (hkk : fieldKK op = kk) :
    wordXKK c (fieldX op) kk = op := by
  rw [← h, ← hkk, wordXKK_fields]

theorem wordXYN_of_opClass {n : BitVec 4} (h : opClass op = c) (hn : fieldN op = n) :
    wordXYN c (fieldX op) (fieldY op) n = op := by
  rw [← h, ← hn, wordXYN_fields]

theorem standsFor_unrecognized (h : unrecognizedWord op = true) : StandsFor (.unrecognized op) op := ⟨h, rfl⟩

theorem decodeClass0_standsFor (h : opClass op = 0x0#4) : StandsFor (decodeClass0 op) op := by
  have hword := wordNNN_of_opClass h
  unfold decodeClass0
  split
  · next heq => exact ⟨rfl, heq.symm⟩
  · next hcls =>
    split
    · next heq => exact ⟨rfl, heq.symm⟩
    · next hret =>
      have hne_cls : fieldNNN op ≠ 0x0E0#12 := fun e => hcls (by rw [← hword, e]; rfl)
      have hne_ret : fieldNNN op ≠ 0x0EE#12 := fun e => hret (by rw [← hword, e]; rfl)
      exact ⟨by simp [Instr.wellFormed, hne_cls, hne_ret], hword⟩

theorem decodeClass8_standsFor (h : opClass op = 0x8#4) : StandsFor (decodeClass8 op) op := by
  unfold decodeClass8
  split
  case h_10 h0 h1 h2 h3 h4 h5 h6 h7 hE =>
    have hn : 8 ≤ (fieldN op).toNat := by simp only [imp_false] at *; bv_omega
    exact standsFor_unrecognized ((unrecognizedWord_iff op).2 (.inr (.inl ⟨h, hn, hE⟩)))
  all_goals next hn => exact ⟨rfl, wordXYN_of_opClass h hn⟩

theorem decodeClassE_standsFor (h : opClass op = 0xE#4) : StandsFor (decodeClassE op) op := by
  unfold decodeClassE
  split
  case h_3 hskp hsknp =>
    exact standsFor_unrecognized ((unrecognizedWord_iff op).2 (.inr (.inr (.inr (.inl ⟨h, hskp, hsknp⟩)))))
  all_goals next hkk => exact ⟨rfl, wordXKK_of_opClass h hkk⟩

theorem decodeClassF_standsFor (h : opClass op = 0xF#4) : StandsFor (decodeClassF op) op := by
  unfold decodeClassF
  split
  case h_10 h07 h0A h15 h18 h1E h29 h33 h55 h65 =>
    refine standsFor_unrecognized ((unrecognizedWord_iff op).2 (.inr (.inr (.inr (.inr ⟨h, ?_⟩)))))
    simp only [List.mem_cons, List.not_mem_nil, not_or]
    exact ⟨h07, h0A, h15, h18, h1E, h29, h33, h55, h65, not_false⟩
  all_goals next hkk => exact ⟨rfl, wordXKK_of_opClass h hkk⟩

end

/-- Every word is decoded to a form that stands for it. -/
theorem decode_standsFor (op : Word) : StandsFor (decode op) op := by
  unfold decode
  split
  next h => exact decodeClass0_standsFor h
  next h => exact ⟨rfl, wordNNN_of_opClass h⟩
  next h => exact ⟨rfl, wordNNN_of_opClass h⟩
  next h => exact ⟨rfl, wordXKK_of_opClass h rfl⟩
  next h => exact ⟨rfl, wordXKK_of_opClass h rfl⟩
  next h =>
    split
    · next hn => exact ⟨rfl, wordXYN_of_opClass h hn⟩
    · next hn => exact standsFor_unrecognized ((unrecognizedWord_iff op).2 (.inl ⟨h, hn⟩))
  next h => exact ⟨rfl, wordXKK_of_opClass h rfl⟩
  next h => exact ⟨rfl, wordXKK_of_opClass h rfl⟩
  next h => exact decodeClass8_standsFor h
  next h =>
    split
    · next hn => exact ⟨rfl, wordXYN_of_opClass h hn⟩
    · next hn => exact standsFor_unrecognized ((unrecognizedWord_iff op).2 (.inr (.inr (.inl ⟨h, hn⟩))))
  next h => exact ⟨rfl, wordNNN_of_opClass h⟩
  next h => exact ⟨rfl, wordNNN_of_opClass h⟩
  next h => exact ⟨rfl, wordXKK_of_opClass h rfl⟩
  next h => exact ⟨rfl, wordXYN_of_opClass h rfl⟩
  next h => exact decodeClassE_standsFor h
  next h0 h1 h2 h3 h4 h5 h6 h7 h8 h9 hA hB hC hD hE =>
    have hF : opClass op = 0xF#4 := by simp only [imp_false] at *; bv_omega
    exact decodeClassF_standsFor hF

/-! ### The round trip -/

/-- Settles O2: each form's word decodes to the form. -/
theorem decodeUndoesEncode : Obligations.DecodeUndoesEncode := by
  intro i hi
  cases i with
  | cls => exact decode_cls_word
  | ret => exact decode_ret_word
  | sys nnn =>
    obtain ⟨hcls, hret⟩ : nnn ≠ 0x0E0#12 ∧ nnn ≠ 0x0EE#12 := by simpa [Instr.wellFormed] using hi
    exact decode_sys_word nnn hcls hret
  | jp nnn => exact decode_jp_word nnn
  | call nnn => exact decode_call_word nnn
  | seImm x kk => exact decode_seImm_word x kk
  | sneImm x kk => exact decode_sneImm_word x kk
  | seReg x y => exact decode_seReg_word x y
  | ldImm x kk => exact decode_ldImm_word x kk
  | addImm x kk => exact decode_addImm_word x kk
  | ldReg x y => exact decode_ldReg_word x y
  | orReg x y => exact decode_orReg_word x y
  | andReg x y => exact decode_andReg_word x y
  | xorReg x y => exact decode_xorReg_word x y
  | addReg x y => exact decode_addReg_word x y
  | subReg x y => exact decode_subReg_word x y
  | shr x y => exact decode_shr_word x y
  | subnReg x y => exact decode_subnReg_word x y
  | shl x y => exact decode_shl_word x y
  | sneReg x y => exact decode_sneReg_word x y
  | ldIndex nnn => exact decode_ldIndex_word nnn
  | jpV0 nnn => exact decode_jpV0_word nnn
  | rnd x kk => exact decode_rnd_word x kk
  | drw x y n => exact decode_drw_word x y n
  | skp x => exact decode_skp_word x
  | sknp x => exact decode_sknp_word x
  | ldVDt x => exact decode_ldVDt_word x
  | ldVKey x => exact decode_ldVKey_word x
  | ldDtV x => exact decode_ldDtV_word x
  | ldStV x => exact decode_ldStV_word x
  | addIndex x => exact decode_addIndex_word x
  | ldFont x => exact decode_ldFont_word x
  | ldBcd x => exact decode_ldBcd_word x
  | storeRegs x => exact decode_storeRegs_word x
  | loadRegs x => exact decode_loadRegs_word x
  | unrecognized op => exact decode_unrecognized_word hi

/-- Settles O3: the form that the decoder gives stands for the word. -/
theorem encodeUndoesDecode : Obligations.EncodeUndoesDecode := decode_standsFor

/-- Settles O4: UNRECOGNIZED carries the word it is decoded from and is well formed, which is the table; and a word of
the table decodes to it. -/
theorem unrecognizedWordsAreTheTable : Obligations.UnrecognizedWordsAreTheTable := by
  intro op op'
  rw [← unrecognizedWord_iff]
  constructor
  · intro hdecode
    obtain ⟨hwf, hencode⟩ := decode_standsFor op
    rw [hdecode] at hwf hencode
    have hop : op' = op := hencode
    exact ⟨hop, hop ▸ hwf⟩
  · rintro ⟨rfl, htable⟩
    exact decode_unrecognized_word htable

/-! ### Known words and bytes -/

/-- Settles O1: the twelve words are decoded one by one. -/
theorem knownWordsDecode : Obligations.KnownWordsDecode := by
  unfold Obligations.KnownWordsDecode
  decide

/-- Settles O5: the word of the two leading bytes is big-endian, and one byte or none is rejected. -/
theorem instructionsAreTwoBytes : Obligations.InstructionsAreTwoBytes := by
  refine ⟨fun hi lo rest => ⟨wordOfBytes hi lo, toNat_wordOfBytes hi lo, rfl⟩, fun bs hlen => ?_⟩
  match bs, hlen with
  | [], _ => rfl
  | [_], _ => rfl

end Sys2Proof

/-! ## Proofs: what an instruction answers (spec/40_sequencer.md R104, spec/60_exceptions.md R202, R203)

Said once for all forms: where the table of R202 gives a fault the instruction raises it, and elsewhere it completes in
one of the ways that `Completion` lists. The frame of every form, its stores and its next pc are read from that list. -/

namespace Sys2Proof.Machine

/-! ### The range checks as bounds on I (R63, R64) -/

theorem indexOk_three (s : State) : s.indexOk 3 = true ↔ s.i.toNat + 2 ≤ 4095 := by
  rw [indexOk_iff]; omega

theorem indexOk_regCount (s : State) (x : Reg) : s.indexOk (regCount x) = true ↔ s.i.toNat + x.toNat ≤ 4095 := by
  rw [indexOk_iff, regCount]; omega

theorem indexOk_rows (s : State) (n : BitVec 4) : s.indexOk n.toNat = true ↔ n = 0#4 ∨ s.i.toNat + n.toNat ≤ 4096 := by
  rw [indexOk_iff, ← BitVec.toNat_inj]; rfl

/-! ### The meanings of the forms that may fault -/

section
variable (x y : Reg) (nnn : Addr12) {s : State}

theorem exec_ret (h : s.sp.val ≠ 0) : exec .ret s = .next (s.pop.setPc (s.top + 2)) :=
  if_neg fun e => h (congrArg Fin.val e)

theorem exec_call (h : s.sp.val ≠ 16) : exec (.call nnn) s = .next ((s.push s.pc).setPc (addrOperand nnn)) :=
  if_neg fun e => h (congrArg Fin.val e)

theorem exec_drw {n : BitVec 4} (h : n = 0#4 ∨ s.i.toNat + n.toNat ≤ 4096) :
    exec (.drw x y n) s = .next ((drawRows (spriteBase x y s) n.toNat (s.setReg vf 0)).setRedraw true).seq :=
  if_pos ((indexOk_rows s n).2 h)

theorem exec_ldBcd (h : s.i.toNat + 2 ≤ 4095) :
    exec (.ldBcd x) s = .next (storeAtIndex (decimalDigits (s.reg x)) s) :=
  if_pos ((indexOk_three s).2 h)

theorem exec_storeRegs (h : s.i.toNat + x.toNat ≤ 4095) :
    exec (.storeRegs x) s = .next (storeAtIndex (s.regsUpTo x) s) :=
  if_pos ((indexOk_regCount s x).2 h)

theorem exec_loadRegs (h : s.i.toNat + x.toNat ≤ 4095) :
    exec (.loadRegs x) s = .next (s.loadRegs (regCount x)).seq :=
  if_pos ((indexOk_regCount s x).2 h)

variable {x}

theorem exec_skp {k : Key} (h : (s.reg x).toNat = k.val) : exec (.skp x) s = .next (s.skipIf (s.key k)) := by
  simp only [exec, execSkp, State.keyOperand_some.2 h]

theorem exec_sknp {k : Key} (h : (s.reg x).toNat = k.val) : exec (.sknp x) s = .next (s.skipIf (!s.key k)) := by
  simp only [exec, execSknp, State.keyOperand_some.2 h]

end

/-! ### The meanings of the forms that never fault -/

section
variable (x y : Reg) (kk : Byte) (nnn : Addr12) (op : Word) (s : State)

theorem exec_sys : exec (.sys nnn) s = .next s.seq := rfl
theorem exec_unrecognized : exec (.unrecognized op) s = .next (s.report op).seq := rfl
theorem exec_jp : exec (.jp nnn) s = .next (s.setPc (addrOperand nnn)) := rfl
theorem exec_jpV0 : exec (.jpV0 nnn) s = .next (s.setPc (wideOperand (s.reg 0) + addrOperand nnn)) := rfl
theorem exec_seImm : exec (.seImm x kk) s = .next (s.skipIf (s.reg x == kk)) := rfl
theorem exec_sneImm : exec (.sneImm x kk) s = .next (s.skipIf (s.reg x != kk)) := rfl
theorem exec_seReg : exec (.seReg x y) s = .next (s.skipIf (s.reg x == s.reg y)) := rfl
theorem exec_sneReg : exec (.sneReg x y) s = .next (s.skipIf (s.reg x != s.reg y)) := rfl
theorem exec_addReg :
    exec (.addReg x y) s = writeFlagThenResult (carry (s.reg x) (s.reg y)) x (s.reg x + s.reg y) s := rfl
theorem exec_subReg :
    exec (.subReg x y) s = writeFlagThenResult (notBorrow (s.reg x) (s.reg y)) x (s.reg x - s.reg y) s := rfl
theorem exec_subnReg :
    exec (.subnReg x y) s = writeFlagThenResult (notBorrow (s.reg y) (s.reg x)) x (s.reg y - s.reg x) s := rfl
theorem exec_shr : exec (.shr x y) s = writeFlagThenUpdate (lowBit (s.reg x)) x (· >>> 1) s := rfl
theorem exec_shl : exec (.shl x y) s = writeFlagThenUpdate (highBit (s.reg x)) x (· <<< 1) s := rfl
theorem exec_rnd : exec (.rnd x kk) s = writeResult x (s.drawnByte &&& kk) s.countDraw := rfl
theorem exec_addIndex : exec (.addIndex x) s = .next (s.setIndex (s.i + wideOperand (s.reg x))).seq := rfl

variable {s}

theorem exec_ldVKey_of_none (h : selectKey s.params.keyChoice s.heldKeys = none) : exec (.ldVKey x) s = .next s := by
  simp only [exec, execLdVKey, h, State.hold_eq]

theorem exec_ldVKey_of_some {k : Key} (h : selectKey s.params.keyChoice s.heldKeys = some k) :
    exec (.ldVKey x) s = writeResult x (BitVec.ofNat 8 k.val) s := by
  simp only [exec, execLdVKey, h, writeResult]

end

/-! ### Faults -/

/-- Where the table of R202 gives a fault, the instruction raises it. -/
theorem exec_of_faultOf {i : Instr} {s : State} {c : FaultCause} (h : faultOf i s = some c) :
    exec i s = takeBoundsError c i s := by
  cases i with
  | ret =>
    obtain ⟨hsp, rfl⟩ : s.sp.val = 0 ∧ .stackUnderflow = c := by simpa [faultOf] using h
    exact if_pos (Fin.ext hsp)
  | call nnn =>
    obtain ⟨hsp, rfl⟩ : s.sp.val = 16 ∧ .stackOverflow = c := by simpa [faultOf] using h
    exact if_pos (Fin.ext hsp)
  | drw x y n =>
    obtain ⟨⟨hn, hi⟩, rfl⟩ : (0 < n.toNat ∧ 4095 < s.i.toNat + n.toNat - 1) ∧ .memBounds = c := by
      simpa only [faultOf, Option.ite_none_right_eq_some, Option.some.injEq] using h
    exact if_neg (mt (indexOk_iff s n.toNat).1 (by omega))
  | ldBcd x =>
    obtain ⟨hi, rfl⟩ : 4095 < s.i.toNat + 2 ∧ .memBounds = c := by simpa [faultOf] using h
    exact if_neg (mt (indexOk_three s).1 (by omega))
  | storeRegs x =>
    obtain ⟨hi, rfl⟩ : 4095 < s.i.toNat + x.toNat ∧ .memBounds = c := by simpa [faultOf] using h
    exact if_neg (mt (indexOk_regCount s x).1 (by omega))
  | loadRegs x =>
    obtain ⟨hi, rfl⟩ : 4095 < s.i.toNat + x.toNat ∧ .memBounds = c := by simpa [faultOf] using h
    exact if_neg (mt (indexOk_regCount s x).1 (by omega))
  | skp x =>
    obtain ⟨hkey, rfl⟩ : 15 < (s.reg x).toNat ∧ .keyRange = c := by simpa [faultOf] using h
    simp only [exec, execSkp, State.keyOperand_none.2 hkey]
  | sknp x =>
    obtain ⟨hkey, rfl⟩ : 15 < (s.reg x).toNat ∧ .keyRange = c := by simpa [faultOf] using h
    simp only [exec, execSknp, State.keyOperand_none.2 hkey]
  | _ => simp [faultOf] at h

section
variable {x y : Reg} {n : BitVec 4} {nnn : Addr12} {s : State}

theorem faultOf_ret_eq_none : faultOf .ret s = none ↔ s.sp.val ≠ 0 := by simp [faultOf]
theorem faultOf_call_eq_none : faultOf (.call nnn) s = none ↔ s.sp.val ≠ 16 := by simp [faultOf]
theorem faultOf_ldBcd_eq_none : faultOf (.ldBcd x) s = none ↔ s.i.toNat + 2 ≤ 4095 := by simp [faultOf]
theorem faultOf_storeRegs_eq_none : faultOf (.storeRegs x) s = none ↔ s.i.toNat + x.toNat ≤ 4095 := by simp [faultOf]
theorem faultOf_loadRegs_eq_none : faultOf (.loadRegs x) s = none ↔ s.i.toNat + x.toNat ≤ 4095 := by simp [faultOf]

theorem faultOf_drw_eq_none : faultOf (.drw x y n) s = none ↔ n = 0#4 ∨ s.i.toNat + n.toNat ≤ 4096 := by
  have hrange : faultOf (.drw x y n) s = none ↔ ¬ (0 < n.toNat ∧ 4095 < s.i.toNat + n.toNat - 1) := by simp [faultOf]
  rw [hrange, ← BitVec.toNat_inj, BitVec.toNat_ofNat]
  omega

/-- A value of at most 15 names a key. -/
theorem toNat_le_iff_exists_key {b : Byte} : b.toNat ≤ 15 ↔ ∃ k : Key, b.toNat = k.val :=
  ⟨fun h => ⟨⟨b.toNat, by omega⟩, rfl⟩, fun ⟨k, hk⟩ => by omega⟩

theorem faultOf_skp_eq_none : faultOf (.skp x) s = none ↔ ∃ k : Key, (s.reg x).toNat = k.val := by
  simp [faultOf, ← toNat_le_iff_exists_key]

theorem faultOf_sknp_eq_none : faultOf (.sknp x) s = none ↔ ∃ k : Key, (s.reg x).toNat = k.val := by
  simp [faultOf, ← toNat_le_iff_exists_key]

end

theorem faultsWith_of_faultOf {i : Instr} {s : State} {c : FaultCause} (h : faultOf i s = some c) : FaultsWith i s c :=
  takeBoundsError_spec (exec_of_faultOf h)

/-! ### Completion -/

/-- The ways in which an instruction without a fault goes on from `s`, one for each kind of update. -/
inductive Completion : Instr → State → State → Prop
  /-- One register is written. -/
  | result {i s x} (b : Byte) (hx : writtenReg i x) : Completion i s (s.setReg x b).seq
  /-- VF is written, and one register after it. -/
  | flagged {i s x} (f : Bool) (b : Byte) (hx : writtenReg i x) (hvf : writtenReg i vf) :
    Completion i s ((s.setFlag f).setReg x b).seq
  | random {s x kk} : Completion (.rnd x kk) s (s.countDraw.setReg x (s.drawnByte &&& kk)).seq
  /-- Nothing but pc is written: SYS and the skips. -/
  | skip {i s} (cond : Bool) : Completion i s (s.skipIf cond)
  | jump {s nnn} : Completion (.jp nnn) s (s.setPc (addrOperand nnn))
  | jumpV0 {s nnn} : Completion (.jpV0 nnn) s (s.setPc (wideOperand (s.reg 0) + addrOperand nnn))
  | call {s nnn} (hsp : s.sp.val ≠ 16) : Completion (.call nnn) s ((s.push s.pc).setPc (addrOperand nnn))
  | ret {s} (hsp : s.sp.val ≠ 0) : Completion .ret s (s.pop.setPc (s.top + 2))
  | index {i s} (w : Word) (hparts : writtenParts i = [.pc, .index]) : Completion i s (s.setIndex w).seq
  /-- Bytes are stored from I on, within memory. -/
  | store {i s ws} (hparts : writtenParts i = [.pc, .memory, .faultRecord]) (hlen : ws.length = storedCount i)
    (hrange : s.i.toNat + ws.length ≤ 4096) : Completion i s (storeAtIndex ws s)
  | load {s x} : Completion (.loadRegs x) s (s.loadRegs (regCount x)).seq
  | delay {s x} : Completion (.ldDtV x) s (s.setDelay (s.reg x)).seq
  | sound {s x} : Completion (.ldStV x) s (s.setSound (s.reg x)).seq
  | clear {s} : Completion .cls s (s.clearDisplay.setRedraw true).seq
  | draw {s x y n} : Completion (.drw x y n) s
    ((drawRows (spriteBase x y s) n.toNat (s.setReg vf 0)).setRedraw true).seq
  /-- FX0A waits for a key. -/
  | hold {s x} : Completion (.ldVKey x) s s
  | report {s op} : Completion (.unrecognized op) s (s.report op).seq

/-- Where the table of R202 gives no fault, the instruction completes. -/
theorem exec_completes {i : Instr} {s : State} (h : faultOf i s = none) :
    ∃ t, exec i s = .next t ∧ Completion i s t := by
  cases i with
  | cls => exact ⟨_, rfl, .clear⟩
  | ret =>
    have hsp := faultOf_ret_eq_none.1 h
    exact ⟨_, exec_ret hsp, .ret hsp⟩
  | sys nnn => exact ⟨_, rfl, .skip false⟩
  | jp nnn => exact ⟨_, rfl, .jump⟩
  | call nnn =>
    have hsp := faultOf_call_eq_none.1 h
    exact ⟨_, exec_call nnn hsp, .call hsp⟩
  | seImm x kk => exact ⟨_, rfl, .skip _⟩
  | sneImm x kk => exact ⟨_, rfl, .skip _⟩
  | seReg x y => exact ⟨_, rfl, .skip _⟩
  | ldImm x kk => exact ⟨_, rfl, .result _ rfl⟩
  | addImm x kk => exact ⟨_, rfl, .result _ rfl⟩
  | ldReg x y => exact ⟨_, rfl, .result _ rfl⟩
  | orReg x y => exact ⟨_, rfl, .result _ rfl⟩
  | andReg x y => exact ⟨_, rfl, .result _ rfl⟩
  | xorReg x y => exact ⟨_, rfl, .result _ rfl⟩
  | addReg x y => exact ⟨_, rfl, .flagged _ _ (.inl rfl) (.inr rfl)⟩
  | subReg x y => exact ⟨_, rfl, .flagged _ _ (.inl rfl) (.inr rfl)⟩
  | shr x y => exact ⟨_, rfl, .flagged _ _ (.inl rfl) (.inr rfl)⟩
  | subnReg x y => exact ⟨_, rfl, .flagged _ _ (.inl rfl) (.inr rfl)⟩
  | shl x y => exact ⟨_, rfl, .flagged _ _ (.inl rfl) (.inr rfl)⟩
  | sneReg x y => exact ⟨_, rfl, .skip _⟩
  | ldIndex nnn => exact ⟨_, rfl, .index _ rfl⟩
  | jpV0 nnn => exact ⟨_, rfl, .jumpV0⟩
  | rnd x kk => exact ⟨_, rfl, .random⟩
  | drw x y n => exact ⟨_, exec_drw x y (faultOf_drw_eq_none.1 h), .draw⟩
  | skp x =>
    obtain ⟨k, hk⟩ := faultOf_skp_eq_none.1 h
    exact ⟨_, exec_skp hk, .skip _⟩
  | sknp x =>
    obtain ⟨k, hk⟩ := faultOf_sknp_eq_none.1 h
    exact ⟨_, exec_sknp hk, .skip _⟩
  | ldVDt x => exact ⟨_, rfl, .result _ rfl⟩
  | ldVKey x =>
    cases hsel : selectKey s.params.keyChoice s.heldKeys with
    | none => exact ⟨_, exec_ldVKey_of_none x hsel, .hold⟩
    | some k => exact ⟨_, exec_ldVKey_of_some x hsel, .result _ rfl⟩
  | ldDtV x => exact ⟨_, rfl, .delay⟩
  | ldStV x => exact ⟨_, rfl, .sound⟩
  | addIndex x => exact ⟨_, rfl, .index _ rfl⟩
  | ldFont x => exact ⟨_, rfl, .index _ rfl⟩
  | ldBcd x =>
    have hi := faultOf_ldBcd_eq_none.1 h
    exact ⟨_, exec_ldBcd x hi, .store rfl rfl (by simp [decimalDigits]; omega)⟩
  | storeRegs x =>
    have hi := faultOf_storeRegs_eq_none.1 h
    have hlen := State.regsUpTo_length s x
    exact ⟨_, exec_storeRegs x hi, .store rfl hlen (by omega)⟩
  | loadRegs x => exact ⟨_, exec_loadRegs x (faultOf_loadRegs_eq_none.1 h), .load⟩
  | unrecognized op => exact ⟨_, rfl, .report⟩

/-- All that an instruction can answer: the fault of the table, or a completion. -/
theorem exec_cases {i : Instr} {s t : State} (h : exec i s = .next t) :
    (∃ c, faultOf i s = some c ∧ t = s.raise c (encode i)) ∨ (faultOf i s = none ∧ Completion i s t) := by
  cases hfault : faultOf i s with
  | some c =>
    rw [exec_of_faultOf hfault] at h
    cases h
    exact .inl ⟨c, rfl, rfl⟩
  | none =>
    obtain ⟨u, hu, hcompl⟩ := exec_completes hfault
    rw [hu] at h
    cases h
    exact .inr ⟨rfl, hcompl⟩

/-! ### Frames of the updates -/

/-- A frame may be widened. -/
theorem Frame.mono {s t : State} {R R' : Reg → Prop} {P P' : List Part} (h : Frame s t R P) (hR : ∀ r, R r → R' r)
    (hP : P ⊆ P') : Frame s t R' P' :=
  ⟨fun r hr => h.1 r (mt (hR r) hr), fun p hp => h.2 p (fun hmem => hp (hP hmem))⟩

theorem Part.same.refl (p : Part) (s : State) : p.same s s := by cases p <;> simp [Part.same]

theorem Part.same.trans {p : Part} {s t u : State} (h : p.same s t) (h' : p.same t u) : p.same s u := by
  cases p <;> simp_all [Part.same]

theorem Frame.refl {s : State} : Frame s s noReg [] := ⟨fun _ _ => rfl, fun p _ => .refl p s⟩

theorem Frame.trans {s t u : State} {R : Reg → Prop} {P : List Part} (h : Frame s t R P) (h' : Frame t u R P) :
    Frame s u R P :=
  ⟨fun r hr => (h'.1 r hr).trans (h.1 r hr), fun p hp => (h.2 p hp).trans (h'.2 p hp)⟩

theorem DrawnFrom.frame {s t : State} (h : DrawnFrom s t) : Frame s t (· = vf) [.display] := by
  refine ⟨fun r hr => h.reg hr, fun p hp => ?_⟩
  obtain ⟨f, d, rfl⟩ := h
  cases p <;> simp_all [Part.same, State.readByte, State.key]

theorem frame_setPc (s : State) (w : Word) : Frame s (s.setPc w) noReg [.pc] := by
  refine ⟨fun r _ => by simp, fun p hp => ?_⟩
  cases p <;> simp_all [Part.same]

theorem frame_push_setPc (s : State) (w w' : Word) : Frame s ((s.push w).setPc w') noReg [.pc, .stack] := by
  refine ⟨fun r _ => by simp, fun p hp => ?_⟩
  cases p <;> simp_all [Part.same]

theorem frame_pop_setPc (s : State) (w : Word) : Frame s (s.pop.setPc w) noReg [.pc, .stack] := by
  refine ⟨fun r _ => by simp, fun p hp => ?_⟩
  cases p <;> simp_all [Part.same]

theorem frame_report_seq (s : State) (op : Word) : Frame s (s.report op).seq noReg [.pc, .reports] := by
  refine ⟨fun r _ => by simp, fun p hp => ?_⟩
  cases p <;> simp_all [Part.same]

theorem frame_countDraw_setReg_seq (s : State) (x : Reg) (b : Byte) :
    Frame s (s.countDraw.setReg x b).seq (· = x) [.pc, .draws] := by
  refine ⟨fun r hr => by simp [State.reg_setReg, hr], fun p hp => ?_⟩
  cases p <;> simp_all [Part.same]

theorem frame_loadRegs_seq (s : State) (x : Reg) :
    Frame s (s.loadRegs (regCount x)).seq (fun r => r.toNat ≤ x.toNat) [.pc] := by
  refine ⟨fun r hr => ?_, fun p hp => ?_⟩
  · have hge : ¬ r.toNat < regCount x := by simp only [regCount]; omega
    simp [State.reg_loadRegs s (show regCount x ≤ 16 from x.isLt), hge]
  · rw [State.loadRegs_eq]
    cases p <;> simp_all [Part.same, State.readByte, State.pixel, State.key]

theorem frame_setRedraw_seq (s : State) (b : Bool) : Frame s (s.setRedraw b).seq noReg [.pc, .redraw] := by
  refine ⟨fun r _ => by simp, fun p hp => ?_⟩
  cases p <;> simp_all [Part.same]

/-- Drawing starts with the write of 0 to VF, which is an update of VF and the display as well. -/
theorem drawRows_cleared_drawnFrom (base : State → Byte × Byte) (n : Nat) (s : State) :
    DrawnFrom s (drawRows base n (s.setReg vf 0)) :=
  .trans ⟨0, s.disp, rfl⟩ (drawRows_drawnFrom base n _)

theorem DrawnFrom.frame_setRedraw_seq {s t : State} (h : DrawnFrom s t) (b : Bool) :
    Frame s (t.setRedraw b).seq (· = vf) [.pc, .display, .redraw] :=
  (h.frame.mono (fun _ => id) (by decide)).trans
    ((Machine.frame_setRedraw_seq t b).mono (fun _ => False.elim) (by decide))

/-! ### The frame of a completion -/

/-- The parts that a form may write where it completes. -/
def completedParts (i : Instr) : List Part := (writtenParts i).erase .faultRecord

theorem pc_mem_writtenParts (i : Instr) : .pc ∈ writtenParts i := by cases i <;> exact List.mem_cons_self

theorem pc_mem_completedParts (i : Instr) : .pc ∈ completedParts i :=
  (List.mem_erase_of_ne (by decide)).2 (pc_mem_writtenParts i)

/-- What a completion leaves unchanged. -/
theorem Completion.frame {i : Instr} {s t : State} (h : Completion i s t) :
    Frame s t (writtenReg i) (completedParts i) := by
  have hpc : [.pc] ⊆ completedParts i := by simpa using pc_mem_completedParts i
  cases h with
  | @result _ _ x b hx =>
    obtain ⟨_, hnext, -, -, hframe⟩ := writeResult_spec x b s
    cases hnext
    exact hframe.mono (fun r hr => hr ▸ hx) hpc
  | @flagged _ _ x f b hx hvf =>
    obtain ⟨_, hnext, -, -, -, hframe⟩ := writeFlagThenResult_spec f x b s
    cases hnext
    exact hframe.mono (fun r hr => hr.elim (· ▸ hx) (· ▸ hvf)) hpc
  | random => exact frame_countDraw_setReg_seq s _ _
  | skip cond => exact (frame_setPc s _).mono (fun _ => False.elim) hpc
  | jump => exact frame_setPc s _
  | jumpV0 => exact frame_setPc s _
  | call => exact frame_push_setPc s _ _
  | ret => exact frame_pop_setPc s _
  | index w hparts =>
    rw [completedParts, hparts]
    exact (frame_setIndex_seq s w).mono (fun _ => False.elim) (List.Subset.refl _)
  | @store _ _ ws hparts =>
    obtain ⟨-, -, -, hframe⟩ := storeAtIndex_spec ws s
    rw [completedParts, hparts]
    exact hframe.mono (fun _ => False.elim) (List.Subset.refl _)
  | load => exact frame_loadRegs_seq s _
  | delay => exact frame_setDelay_seq s _
  | sound => exact frame_setSound_seq s _
  | clear => exact frame_clearDisplay_setRedraw_seq s true
  | draw => exact (drawRows_cleared_drawnFrom _ _ s).frame_setRedraw_seq true
  | hold => exact Frame.refl.mono (fun _ => False.elim) (List.nil_subset _)
  | report => exact frame_report_seq s _

/-! ### The frame of an instruction -/

theorem faultRecord_notMem_completedParts (i : Instr) : .faultRecord ∉ completedParts i := by
  cases i <;> simp [completedParts, writtenParts]

/-- Settles O9: a fault of the table is raised, and a completion leaves the fault record. -/
theorem faultsAreTheTable : Obligations.FaultsAreTheTable := by
  intro i s
  refine ⟨fun c => faultsWith_of_faultOf, fun hnone => ?_⟩
  obtain ⟨t, hexec, hcompl⟩ := exec_completes hnone
  exact ⟨t, hexec, hcompl.frame.2 _ (faultRecord_notMem_completedParts i)⟩

/-- A form that can fault has the fault record among the parts that it may write. -/
theorem faultRecord_mem_writtenParts {i : Instr} {s : State} {c : FaultCause} (h : faultOf i s = some c) :
    .faultRecord ∈ writtenParts i := by
  cases i with
  | ret | call | drw | ldBcd | storeRegs | loadRegs | skp | sknp => simp [writtenParts]
  | _ => simp [faultOf] at h

theorem frame_raise (s : State) (c : FaultCause) (op : Word) : Frame s (s.raise c op) noReg [.faultRecord] := by
  refine ⟨fun r _ => by simp, fun p hp => ?_⟩
  cases p <;> simp_all [Part.same]

/-- Settles O20: a fault writes the fault record of a form that has it in its list, and a completion has its frame. -/
theorem instructionsWriteOnlyTheirOwn : Obligations.InstructionsWriteOnlyTheirOwn := by
  intro i s t h
  rcases exec_cases h with ⟨c, hfault, rfl⟩ | ⟨-, hcompl⟩
  · exact (frame_raise s c _).mono (fun _ => False.elim) (by simpa using faultRecord_mem_writtenParts hfault)
  · exact hcompl.frame.mono (fun _ => id) List.erase_subset

/-! ### Stores -/

/-- A completion leaves memory, or stores as many bytes from I on as its form has, within memory. -/
theorem Completion.mem_cases {i : Instr} {s t : State} (h : Completion i s t) :
    t.mem = s.mem ∨ ∃ ws, ws.length = storedCount i ∧ s.i.toNat + ws.length ≤ 4096 ∧ t = storeAtIndex ws s := by
  cases h with
  | store _ hlen hrange => exact .inr ⟨_, hlen, hrange, rfl⟩
  | load =>
    rw [State.loadRegs_eq]
    exact .inl rfl
  | draw =>
    obtain ⟨f, d, hdrawn⟩ := drawRows_cleared_drawnFrom (spriteBase _ _ s) _ s
    rw [hdrawn]
    exact .inl rfl
  | _ => exact .inl rfl

/-- Settles O21: a fault and every completion but a store leave memory, and a store has its range. -/
theorem storesStayInTheirRange : Obligations.StoresStayInTheirRange := by
  intro i s t a h hout
  rcases exec_cases h with ⟨c, -, rfl⟩ | ⟨-, hcompl⟩
  · rfl
  · rcases hcompl.mem_cases with hmem | ⟨ws, hlen, -, rfl⟩
    · exact congrArg (Memory.read · a) hmem
    · obtain ⟨-, hkept, -, -⟩ := storeAtIndex_spec ws s
      exact hkept a (hlen ▸ hout)

/-! ### The next pc (R105, R106) -/

theorem toNat_add_two {w : Word} (h : w.toNat ≤ 4094) : (w + 2).toNat = w.toNat + 2 := by bv_omega
theorem toNat_add_four {w : Word} (h : w.toNat ≤ 4094) : (w + 4).toNat = w.toNat + 4 := by bv_omega

/-- The sum of R123 is exact: at most 255 + 4095, it does not reach 65536. -/
theorem toNat_wideOperand_add_addrOperand (b : Byte) (nnn : Addr12) :
    (wideOperand b + addrOperand nnn).toNat = b.toNat + nnn.toNat := by
  rw [BitVec.toNat_add, toNat_wideOperand, toNat_addrOperand]
  omega

/-- The entry that a return reads is the one below SP. -/
theorem State.top_eq {s : State} {j : Fin 16} (h : s.sp.val = j.val + 1) : s.top = s.stack[j] := by
  simp [State.top, h]

/-- The selections of R105. -/
theorem Completion.pc_cases {i : Instr} {s t : State} (h : Completion i s t) :
    t.pc = s.pc ∨ t.pc = s.pc + 2 ∨ t.pc = s.pc + 4 ∨
    (∃ nnn, (i = .jp nnn ∨ i = .call nnn) ∧ t.pc = addrOperand nnn) ∨
    (∃ nnn, i = .jpV0 nnn ∧ t.pc = wideOperand (s.reg 0) + addrOperand nnn) ∨
    (i = .ret ∧ s.sp.val ≠ 0 ∧ t.pc = s.top + 2) := by
  cases h with
  | skip cond => cases cond <;> simp
  | jump => exact .inr (.inr (.inr (.inl ⟨_, .inl rfl, rfl⟩)))
  | call => exact .inr (.inr (.inr (.inl ⟨_, .inr rfl, rfl⟩)))
  | jumpV0 => exact .inr (.inr (.inr (.inr (.inl ⟨_, rfl, rfl⟩))))
  | ret hsp => exact .inr (.inr (.inr (.inr (.inr ⟨rfl, hsp, rfl⟩))))
  | hold => exact .inl rfl
  | load =>
    rw [State.loadRegs_eq]
    exact .inr (.inl rfl)
  | draw =>
    obtain ⟨f, d, hdrawn⟩ := drawRows_cleared_drawnFrom (spriteBase _ _ s) _ s
    rw [hdrawn]
    exact .inr (.inl rfl)
  | _ => exact .inr (.inl rfl)

/-- Settles O22: pc stays at a fault, and each selection of a completion is exact under the bounds. -/
theorem nextPcIsExact : Obligations.NextPcIsExact := by
  intro i s t hpc hstack h
  rcases exec_cases h with ⟨c, -, rfl⟩ | ⟨-, hcompl⟩
  · exact .inl rfl
  · rcases hcompl.pc_cases with heq | heq | heq | ⟨nnn, hi, heq⟩ | ⟨nnn, rfl, heq⟩ | ⟨rfl, hsp, heq⟩
    · exact .inl (congrArg _ heq)
    · exact .inr (.inl (by rw [heq, toNat_add_two hpc]))
    · exact .inr (.inr (.inl (by rw [heq, toNat_add_four hpc])))
    · exact .inr (.inr (.inr (.inl ⟨nnn, hi, by rw [heq, toNat_addrOperand]⟩)))
    · exact .inr (.inr (.inr (.inr (.inl ⟨nnn, rfl, heq ▸ toNat_wideOperand_add_addrOperand _ nnn⟩))))
    · obtain ⟨j, hj⟩ : ∃ j : Fin 16, s.sp.val = j.val + 1 := ⟨⟨s.sp.val - 1, by omega⟩, by simp; omega⟩
      refine .inr (.inr (.inr (.inr (.inr ⟨rfl, j, hj, ?_⟩))))
      rw [heq, State.top_eq hj, toNat_add_two (hstack j)]

end Sys2Proof.Machine

/-! ## Proofs: the step cycle and the host (spec/40_sequencer.md R100..R104, spec/60_exceptions.md R203..R222)

Which request a step serves is said by `step_running` for a running machine and by the lemmas about `nextTransaction`
for a halted one; what is left is the effect of that request. -/

namespace Sys2Proof.Machine

/-! ### An instruction step -/

/-- The served request leaves the schedule, and the step is the instruction step. -/
theorem step_of_stepsNext {s : State} {rest : List Transaction} (h : s.stepsNext rest) :
    step s = instructionStep (s.setSchedule rest) := by
  obtain ⟨hrun, hsched | ⟨hsched, rfl⟩⟩ := h
  · exact step_running hrun (.inl hsched)
  · exact step_running hrun (.inr ⟨hsched, rfl, rfl⟩)

/-- Within memory the step is the fetched word's instruction. -/
theorem step_fetchable {s : State} {rest : List Transaction} (h : s.stepsNext rest) (hpc : s.pc.toNat ≤ 4094) :
    step s = exec (decode s.fetchWord) (s.setSchedule rest) :=
  (step_of_stepsNext h).trans (if_pos ((fetchable_iff s).2 hpc))

/-- Beyond memory the step is the fault of the fetch. -/
theorem step_not_fetchable {s : State} {rest : List Transaction} (h : s.stepsNext rest) (hpc : 4094 < s.pc.toNat) :
    step s = .next ((s.setSchedule rest).raise .fetchBounds 0) :=
  (step_of_stepsNext h).trans (if_neg (mt (fetchable_iff s).1 (by omega)))

/-- With nothing requested, a step within memory is the fetched instruction. -/
theorem step_of_idle {s : State} (hrun : s.halted = false) (hsched : s.schedule = []) (hpc : s.pc.toNat ≤ 4094) :
    step s = exec (decode s.fetchWord) s := by
  rw [step_fetchable ⟨hrun, .inr ⟨hsched, rfl⟩⟩ hpc, ← hsched, State.setSchedule_self]

/-- Settles O6: the two bytes at pc are the fetched word, and the step within memory is exec of its form. -/
theorem stepRunsDecodedInstruction : Obligations.StepRunsDecodedInstruction := by
  intro i s rest hnext hpc _ hbytes
  have hdecode : decode s.fetchWord = i := congrArg Prod.fst (Except.ok.inj hbytes)
  rw [step_fetchable hnext hpc, hdecode]

/-- The requests alone change when one is served. -/
theorem frame_setSchedule (s : State) (rest : List Transaction) : Frame s (s.setSchedule rest) noReg [.schedule] := by
  refine ⟨fun r _ => by simp, fun p hp => ?_⟩
  cases p <;> simp_all [Part.same]

/-- What a served request changes, apart from the schedule. -/
theorem Frame.of_setSchedule {s t : State} {rest : List Transaction} {parts : List Part}
    (h : Frame (s.setSchedule rest) t noReg parts) : Frame s t noReg (.schedule :: parts) :=
  ((frame_setSchedule s rest).mono (fun _ => id) (by simp)).trans (h.mono (fun _ => id) (by simp))

/-- Settles O7: the step beyond memory raises FETCH_BOUNDS with the opcode 0. -/
theorem fetchBeyondMemoryFaults : Obligations.FetchBeyondMemoryFaults := by
  intro s rest hnext hpc
  refine ⟨_, step_not_fetchable hnext hpc, rfl, rfl, rfl, rfl, rfl, ?_⟩
  exact (frame_raise (s.setSchedule rest) .fetchBounds 0).of_setSchedule.mono (fun _ => id) (by simp)

/-- No row of the table of R202 gives an instruction the cause of a fetch, or none. -/
theorem faultOf_ne {i : Instr} {s : State} {c : FaultCause} (h : faultOf i s = some c) :
    c ≠ .none ∧ c ≠ .fetchBounds := by
  cases i with
  | ret | call | drw | ldBcd | storeRegs | loadRegs | skp | sknp =>
    simp only [faultOf, Option.ite_none_right_eq_some, Option.some.injEq] at h
    simp [← h.2]
  | _ => simp [faultOf] at h

/-- Settles O10: the halt is the fault of the fetch, or the fault of the fetched word's form, whose encoding is the
word; a completion halts nothing. -/
theorem faultRecordNamesFetchedWord : Obligations.FaultRecordNamesFetchedWord := by
  intro s t rest hnext hstep hhalt
  by_cases hpc : s.pc.toNat ≤ 4094
  · rw [step_fetchable hnext hpc] at hstep
    rcases exec_cases hstep with ⟨c, hfault, rfl⟩ | ⟨-, hcompl⟩
    · obtain ⟨hnone, hfetch⟩ := faultOf_ne hfault
      obtain ⟨-, hencode⟩ := decode_standsFor s.fetchWord
      refine ⟨rfl, hnone, ?_, ⟨fun h => absurd h hfetch, fun h => absurd h (by omega)⟩, ?_⟩
      · rw [if_pos hpc]
        exact hencode
      · exact (frame_raise (s.setSchedule rest) c _).of_setSchedule.mono (fun _ => id) (by simp)
    · obtain ⟨hkept, -⟩ := hcompl.frame.2 .faultRecord (faultRecord_notMem_completedParts _)
      have hrun : s.halted = false := hnext.1
      rw [hkept, State.setSchedule_halted, hrun] at hhalt
      cases hhalt
  · rw [step_not_fetchable hnext (by simpa using hpc)] at hstep
    cases hstep
    refine ⟨rfl, by simp, by rw [if_neg hpc]; rfl, ⟨fun _ => by omega, fun _ => rfl⟩, ?_⟩
    exact (frame_raise (s.setSchedule rest) .fetchBounds 0).of_setSchedule.mono (fun _ => id) (by simp)

/-! ### The halted machine (R101, R205) -/

/-- A halted machine serves its next request that has a transition. -/
theorem step_halted {s : State} {r : Transaction} {rest : List Transaction} (hhalt : s.halted = true)
    (hnext : nextTransaction true s.schedule = some (r, rest)) : step s = serve r (s.setSchedule rest) := by
  simp [step, serveNext, hhalt, hnext]

/-- Settles O11: the waiting steps and ticks are passed over, to nothing or to the request of the host. -/
theorem haltedMachineIsStuck : Obligations.HaltedMachineIsStuck := by
  intro s waiting hhalt hwait
  refine ⟨fun hsched => ?_, fun k b rest hsched => ?_, fun rest hsched => ?_⟩
  · have hnone : nextTransaction true s.schedule = none := by
      rw [hsched, ← List.append_nil waiting, nextTransaction_skip hwait]
      rfl
    simp [step, serveNext, hhalt, hnone]
  · exact step_halted hhalt (by rw [hsched, nextTransaction_skip hwait]; rfl)
  · exact step_halted hhalt (by rw [hsched, nextTransaction_skip hwait]; rfl)

theorem frame_writeKey (s : State) (k : Key) (b : Bool) : Frame s (s.writeKey k b) noReg [.keys] := by
  refine ⟨fun r _ => by simp, fun p hp => ?_⟩
  cases p <;> simp_all [Part.same]

theorem frame_setRedraw (s : State) (b : Bool) : Frame s (s.setRedraw b) noReg [.redraw] := by
  refine ⟨fun r _ => by simp, fun p hp => ?_⟩
  cases p <;> simp_all [Part.same]

/-- Settles O12: a served request of the host is a reset, or one that touches the keys or redraw alone. -/
theorem onlyResetClearsHalted : Obligations.OnlyResetClearsHalted := by
  intro s t hhalt hstep
  rcases step_cases s with ⟨r, rest, hnext, heq⟩ | ⟨-, -, hstuck⟩
  · rw [hhalt] at hnext
    rw [heq] at hstep
    obtain ⟨hnotStep, hnotTick⟩ := nextTransaction_halted hnext
    rcases serve_cases hstep with ⟨rfl, -⟩ | ⟨rfl, -⟩ | ⟨rfl, -⟩ | ⟨k, b, rfl, rfl⟩ | ⟨rfl, rfl⟩ | ⟨b, rfl, -, rfl⟩
    · exact absurd rfl hnotStep
    · exact absurd rfl hnotStep
    · exact absurd rfl hnotTick
    · exact .inr ⟨hhalt, (frame_writeKey (s.setSchedule rest) k b).of_setSchedule.mono (fun _ => id) (by simp)⟩
    · exact .inr ⟨hhalt, (frame_setRedraw (s.setSchedule rest) false).of_setSchedule.mono (fun _ => id) (by simp)⟩
    · exact .inl ⟨b, rest, hnext, rfl⟩
  · rw [hstuck] at hstep
    cases hstep

/-! ### The host's requests -/

/-- A request of the host that stands first is served, running or halted. -/
theorem step_of_enabled {s : State} {r : Transaction} {rest : List Transaction} (hsched : s.schedule = r :: rest)
    (henabled : r.enabled s.halted = true) : step s = serve r (s.setSchedule rest) := by
  simp [step, serveNext, hsched, nextTransaction, henabled]

/-- Settles O14: the two requests have a transition in every state, the update of one key and of redraw. -/
theorem hostActionsTouchKeysAndRedrawAlone : Obligations.HostActionsTouchKeysAndRedrawAlone := by
  intro s rest
  refine ⟨fun k b hsched => ?_, fun hsched => ?_⟩
  · refine ⟨_, step_of_enabled hsched rfl, (State.key_writeKey (s.setSchedule rest) k · b), rfl, ?_⟩
    exact (frame_writeKey (s.setSchedule rest) k b).of_setSchedule.mono (fun _ => id) (by simp)
  · refine ⟨_, step_of_enabled hsched rfl, rfl, rfl, ?_⟩
    exact (frame_setRedraw (s.setSchedule rest) false).of_setSchedule.mono (fun _ => id) (by simp)

/-- Settles O16: the reset of an over-long image is refused. -/
theorem overlongImageStartsNoSession : Obligations.OverlongImageStartsNoSession := by
  intro s b rest hsched hlen
  have hlong : ¬ b.image.length ≤ maxImage := by simpa [maxImage] using hlen
  exact (step_of_enabled hsched rfl).trans (if_neg hlong)

/-! ### A placed word and an idle loop -/

theorem fetchSlot_fetchable (s : State) : s.fetchSlot.toNat ≤ 4094 := by
  unfold State.fetchSlot
  split
  · next h => exact (fetchable_iff s).1 h
  · decide

/-- The word that is placed is the word that is fetched (R65). -/
theorem fetchWord_placeWord (s : State) (nbits w : Nat) :
    (s.placeWord nbits w).fetchWord = BitVec.ofNat 16 (w % 2 ^ nbits) := by
  have hread (k : Nat) (hk : k < 2) : (s.placeWord nbits w).readByte (s.fetchSlot.toNat + k) =
      (bytesOfWord (BitVec.ofNat 16 (w % 2 ^ nbits)))[k] := by
    simp only [State.readByte, State.placeWord, Memory.read_writeBytes]
    rw [dif_pos ⟨by omega, Nat.add_lt_add_left hk _⟩]
    simp only [Nat.add_sub_cancel_left]
    rfl
  calc (s.placeWord nbits w).fetchWord
    _ = wordOfBytes ((s.placeWord nbits w).readByte (s.fetchSlot.toNat + 0))
        ((s.placeWord nbits w).readByte (s.fetchSlot.toNat + 1)) := rfl
    _ = BitVec.ofNat 16 (w % 2 ^ nbits) := by
      rw [hread 0 (by decide), hread 1 (by decide)]
      exact wordOfBytes_bytesOfWord _

/-- Settles O8: the bytes of the word are read back as the word, at a place where a step fetches. -/
theorem placedWordIsRun : Obligations.PlacedWordIsRun := by
  intro s w hw
  have hmod : w % 2 ^ 16 = w := Nat.mod_eq_of_lt hw
  have hfetch : (s.withFetchWord 16 w).fetchWord = BitVec.ofNat 16 (w % 2 ^ 16) := fetchWord_placeWord s 16 w
  constructor
  · have hbytes := decodeBytes_bytesOfWord (BitVec.ofNat 16 w) []
    rw [List.append_nil] at hbytes
    simp only [decodeTableWord, hmod, hbytes]
  · rw [step_of_idle rfl rfl (fetchSlot_fetchable s), hfetch, hmod]

/-- The word of an idle loop is the jump to its own address. -/
theorem decode_idle_word {pc : Word} (h : pc.toNat ≤ 4094) : decode (0x1000#16 + pc) = .jp (pc.setWidth 12) := by
  have hword : 0x1000#16 + pc = wordNNN 0x1#4 (pc.setWidth 12) := by
    apply BitVec.eq_of_toNat_eq
    rw [toNat_wordNNN, BitVec.toNat_setWidth, BitVec.toNat_add, BitVec.toNat_ofNat, BitVec.toNat_ofNat]
    omega
  rw [hword, decode_jp_word]

/-- Settles O53: the fetched word is the jump to pc, which writes to pc the value that it has. -/
theorem idleLoopStepChangesNothing : Obligations.IdleLoopStepChangesNothing := by
  rintro s hrun hsched ⟨hpc, hword⟩
  have htarget : addrOperand (s.pc.setWidth 12) = s.pc := by
    apply BitVec.eq_of_toNat_eq
    rw [toNat_addrOperand, BitVec.toNat_setWidth]
    omega
  rw [step_of_idle hrun hsched hpc, hword, decode_idle_word hpc, exec_jp, htarget]
  rfl

end Sys2Proof.Machine

/-! ## Proofs: reset and the invariant (spec/70_reset_and_hazards.md R240..R244, spec/10_state.md R27..R41)

The Loader's memory is three writes over empty memory, read back from the last one to the first. The invariant is kept
by each transaction: by an instruction because of what `exec_cases` says of it. -/

namespace Sys2Proof.Machine

/-! ### The Loader's memory -/

/-- An address that no cell names is not written. -/
theorem read_writeCells_of_notMem {cells m : List Host.Cell} {a : Nat} (h : ∀ u, (a, u) ∉ cells) :
    Memory.read (Memory.writeCells m cells) a = Memory.read m a := by
  induction cells generalizing m with
  | nil => rfl
  | cons c cells ih =>
    obtain ⟨d, u⟩ := c
    have hne : a ≠ d := fun e => h u (e ▸ List.mem_cons_self)
    rw [Memory.writeCells, ih fun v hv => h v (List.mem_cons_of_mem _ hv)]
    split
    · exact Memory.read_write_other hne
    · rfl

/-- An address whose cells all hold one byte reads as it, where a cell names it or it read so before. -/
theorem read_writeCells_of_unique {cells m : List Host.Cell} {a : Nat} {w : Byte} (ha : a < memSize)
    (hunique : ∀ u, (a, u) ∈ cells → u = w) (h : (a, w) ∈ cells ∨ Memory.read m a = w) :
    Memory.read (Memory.writeCells m cells) a = w := by
  induction cells generalizing m with
  | nil => exact h.resolve_left List.not_mem_nil
  | cons c cells ih =>
    obtain ⟨d, u⟩ := c
    refine ih (fun v hv => hunique v (List.mem_cons_of_mem _ hv)) ?_
    by_cases hd : d = a
    · subst hd
      obtain rfl : u = w := hunique u List.mem_cons_self
      rw [if_pos ha]
      exact .inr Memory.read_write_same
    · rcases h with h | h
      · exact .inl ((List.mem_cons.1 h).resolve_left fun e => hd (Prod.ext_iff.1 e).1.symm)
      · refine .inr ?_
        split
        · rwa [Memory.read_write_other (Ne.symm hd)]
        · exact h

/-- An address above the font reads as MEM_INIT in empty memory. -/
theorem read_nil_of_ge {a : Nat} (h : 80 ≤ a) : Memory.read [] a = Config.memInit a := by
  have hnone : knownBoot a = none := List.getElem?_eq_none h
  simp [Memory.read, Memory.lookup, bootByte, hnone]

section
variable (b : BootImage) {a : Nat}

theorem read_bootMemory_image {j : Nat} (h : j < b.image.length) :
    Memory.read (bootMemory b) (512 + j) = b.image[j] := by
  simp [bootMemory, Memory.read_writeBytes, progBase, h]

theorem read_bootMemory_font (j : Fin 80) : Memory.read (bootMemory b) j.val = b.font[j] := by
  have hj := j.isLt
  rw [bootMemory, Memory.read_writeBytes, dif_neg (by simp only [progBase]; omega), Memory.read_writeBytes,
    dif_pos (by simp)]
  simp

theorem read_bootMemory_other (hfont : 80 ≤ a) (himage : ¬ (512 ≤ a ∧ a < 512 + b.image.length)) :
    Memory.read (bootMemory b) a = Memory.read (Memory.writeCells [] b.memInit) a := by
  rw [bootMemory, Memory.read_writeBytes]
  refine (dif_neg himage).trans ?_
  rw [Memory.read_writeBytes, dif_neg (by simp; omega)]

end

/-! ### Reset -/

theorem bootState_reg (b : BootImage) (s : State) (r : Reg) : (bootState b s).reg r = 0 := by
  simp [State.reg, bootState, State.reset]

theorem bootState_stack (b : BootImage) (s : State) (j : Fin 16) : (bootState b s).stack[j] = 0 := by
  simp [bootState, State.reset]

theorem bootState_pixel (b : BootImage) (s : State) (r : Fin 32) (c : Fin 64) : (bootState b s).pixel r c = false := by
  simp [State.pixel, bootState, State.reset]

/-- Settles O15: the reset transaction answers the boot state, whose memory is the Loader's. -/
theorem resetBootsTheMachine : Obligations.ResetBootsTheMachine := by
  intro s b rest hsched hlen
  have hstep : step s = .next (bootState b (s.setSchedule rest)) :=
    (step_of_enabled hsched rfl).trans (if_pos hlen)
  refine ⟨_, hstep, rfl, bootState_reg b _, rfl, rfl, bootState_stack b _, rfl, rfl, bootState_pixel b _, rfl, rfl, rfl,
    rfl, rfl, read_bootMemory_font b, fun j h => read_bootMemory_image b h, fun a w hfont ha himage hmem hunique => ?_,
    fun a hfont himage hfree => ?_, bootMemory_wf hlen, fun k => rfl, rfl⟩
  · exact (read_bootMemory_other b hfont himage).trans (read_writeCells_of_unique ha hunique (.inl hmem))
  · exact (read_bootMemory_other b hfont himage).trans
      ((read_writeCells_of_notMem hfree).trans (read_nil_of_ge hfont))

/-- Settles O17: State.reset is read element by element, its memory as empty memory. -/
theorem resetStateValues : Obligations.ResetStateValues := by
  refine ⟨rfl, rfl, rfl, fun r => ?_, rfl, rfl, rfl, rfl, fun r c => ?_, rfl, fun k => ?_, fun a => read_nil_of_ge, ?_⟩
  · simp [State.reg, State.reset]
  · simp [State.pixel, State.reset]
  · simp [State.key, State.reset]
  · rfl

/-! ### The invariant -/

/-- A state that runs, with a clear fault record, meets the invariant where its bounds and its memory do. -/
theorem Invariant.of_running {s : State} (hmem : Memory.wf s.mem) (hpc : s.pc.toNat ≤ 4350)
    (hstack : ∀ j : Fin 16, s.stack[j].toNat ≤ 4094) (hhalt : s.halted = false)
    (hrecord : s.faultCause = .none ∧ s.faultPc = 0 ∧ s.faultOpcode = 0) : Invariant s :=
  ⟨hmem, hpc, hstack, fun _ => hrecord, fun h => by rw [hhalt] at h; cases h⟩

theorem bootState_invariant {b : BootImage} (hlen : b.image.length ≤ maxImage) (s : State) :
    Invariant (bootState b s) :=
  .of_running (bootMemory_wf hlen) (by simp [bootState, State.reset]) (fun j => by rw [bootState_stack]; decide) rfl
    ⟨rfl, rfl, rfl⟩

/-- Settles O19: the state after reset has empty memory, pc 512, a zero stack and a clear record. -/
theorem resetMeetsInvariant : Obligations.ResetMeetsInvariant :=
  .of_running State.reset_mem_wf (by decide) (fun j => by simp [State.reset]) rfl ⟨rfl, rfl, rfl⟩

/-- The fault that a form raises depends on the registers, I and SP alone. -/
theorem faultOf_congr (i : Instr) {s t : State} (hreg : ∀ r, t.reg r = s.reg r) (hi : t.i = s.i) (hsp : t.sp = s.sp) :
    faultOf i t = faultOf i s := by
  cases i <;> simp only [faultOf, hreg, hi, hsp]

/-- An update that leaves all that the invariant speaks of keeps it. -/
theorem Invariant.of_frame {s t : State} {parts : List Part} (hs : Invariant s) (hmem : t.mem = s.mem)
    (h : Frame s t noReg parts)
    (hparts : ∀ p ∈ parts, p ∈ [Part.keys, .redraw, .schedule, .delay, .sound]) : Invariant t := by
  obtain ⟨hwf, hpc, hstack, hrun, hstop⟩ := hs
  obtain ⟨hreg, hpart⟩ := h
  have hkept (p : Part) (hp : p ∉ [Part.keys, .redraw, .schedule, .delay, .sound]) : p.same s t :=
    hpart p (mt (hparts p) hp)
  have hi : t.i = s.i := hkept .index (by decide)
  have hpc' : t.pc = s.pc := hkept .pc (by decide)
  obtain ⟨hsp, hstack'⟩ : t.sp = s.sp ∧ t.stack = s.stack := hkept .stack (by decide)
  obtain ⟨hhalted, hcause, hfpc, hop⟩ : Part.faultRecord.same s t := hkept .faultRecord (by decide)
  have hfault := faultOf_congr (decode s.faultOpcode) (fun r => hreg r not_false) hi hsp
  refine ⟨hmem ▸ hwf, hpc' ▸ hpc, fun j => hstack' ▸ hstack j, ?_, ?_⟩
  · rwa [hhalted, hcause, hfpc, hop]
  · rwa [hhalted, hcause, hfpc, hop, hpc', hfault]

/-- What the stack holds after a push. -/
theorem State.stack_push (s : State) (w : Word) (j : Fin 16) :
    (s.push w).stack[j] = if j.val = s.sp.val then w else s.stack[j] := by
  simp [Vector.getElem_setIfInBounds, eq_comm]

/-- The entries after a completion: a CALL pushes its pc, and every other form leaves them. -/
theorem Completion.stack_le {i : Instr} {s t : State} (h : Completion i s t) (hpc : s.pc.toNat ≤ 4094)
    (hstack : ∀ j : Fin 16, s.stack[j].toNat ≤ 4094) (j : Fin 16) : t.stack[j].toNat ≤ 4094 := by
  cases h with
  | call =>
    show ((s.push s.pc).stack[j]).toNat ≤ 4094
    rw [State.stack_push]
    split
    · exact hpc
    · exact hstack j
  | load =>
    rw [State.loadRegs_eq]
    exact hstack j
  | draw =>
    obtain ⟨f, d, hdrawn⟩ := drawRows_cleared_drawnFrom (spriteBase _ _ s) _ s
    rw [hdrawn]
    exact hstack j
  | _ => exact hstack j

theorem Completion.mem_wf {i : Instr} {s t : State} (h : Completion i s t) (hwf : Memory.wf s.mem) :
    Memory.wf t.mem := by
  rcases h.mem_cases with hmem | ⟨ws, -, hrange, rfl⟩
  · exact hmem ▸ hwf
  · exact Memory.wf_writeBytes hwf hrange

/-- The bound of R27: the highest target is that of JP V0. -/
theorem exec_pc_le {i : Instr} {s t : State} (h : exec i s = .next t) (hpc : s.pc.toNat ≤ 4094)
    (hstack : ∀ j : Fin 16, s.stack[j].toNat ≤ 4094) : t.pc.toNat ≤ 4350 := by
  rcases nextPcIsExact i s t hpc hstack h with
    heq | heq | heq | ⟨nnn, -, heq⟩ | ⟨nnn, -, heq⟩ | ⟨-, j, -, heq⟩
  · omega
  · omega
  · omega
  · omega
  · omega
  · have := hstack j
    omega

/-- An instruction within memory keeps the invariant of a running machine. -/
theorem exec_invariant {i : Instr} {s t : State} (hwf : i.wellFormed = true) (hs : Invariant s)
    (hrun : s.halted = false) (hpc : s.pc.toNat ≤ 4094) (h : exec i s = .next t) : Invariant t := by
  rcases exec_cases h with ⟨c, hfault, rfl⟩ | ⟨-, hcompl⟩
  · refine ⟨hs.memory, hs.pc, hs.stack, fun hrun' => ?_, fun _ => ⟨rfl, .inr ⟨hpc, ?_⟩⟩⟩
    · cases hrun'
    · rw [State.raise_faultOpcode, decodeUndoesEncode i hwf, State.raise_faultCause, ← hfault]
      exact faultOf_congr i (fun _ => rfl) rfl rfl
  · obtain ⟨hhalted, hcause, hfpc, hop⟩ : Part.faultRecord.same s t :=
      hcompl.frame.2 _ (faultRecord_notMem_completedParts i)
    refine .of_running (hcompl.mem_wf hs.memory) (exec_pc_le h hpc hs.stack) (hcompl.stack_le hpc hs.stack)
      (hhalted.trans hrun) ?_
    rw [hcause, hfpc, hop]
    exact hs.running hrun

theorem frame_tick (s : State) : Frame s (tick s) noReg [.delay, .sound] := by
  refine ⟨fun r _ => by simp, fun p hp => ?_⟩
  cases p <;> simp_all [Part.same]

/-- Settles O18: an instruction and a faulting fetch keep the invariant, a reset establishes it, and the other requests
leave all that it speaks of. -/
theorem stepKeepsInvariant : Obligations.StepKeepsInvariant := by
  intro s t hs hstep
  rcases step_cases s with ⟨r, rest, hnext, heq⟩ | ⟨-, -, hstuck⟩
  · have hs' : Invariant (s.setSchedule rest) := hs.of_frame rfl (frame_setSchedule s rest) (by decide)
    have hrun (hr : r = .step) : s.halted = false := by
      by_contra hhalt
      rw [Bool.not_eq_false] at hhalt
      exact (nextTransaction_halted (hhalt ▸ hnext)).1 hr
    rw [heq] at hstep
    rcases serve_cases hstep with ⟨hr, hfetch, hexec⟩ | ⟨hr, hfetch, rfl⟩ | ⟨-, rfl⟩ | ⟨k, b, -, rfl⟩ | ⟨-, rfl⟩ |
      ⟨b, -, hlen, rfl⟩
    · exact exec_invariant (decode_standsFor _).1 hs' (hrun hr) ((fetchable_iff _).1 hfetch) hexec
    · have hpc : 4094 < s.pc.toNat := not_le.1 (of_decide_eq_false hfetch)
      refine ⟨hs.memory, hs.pc, hs.stack, fun hrun' => ?_, fun _ => ⟨rfl, .inl ⟨rfl, hpc, rfl⟩⟩⟩
      cases hrun'
    · exact hs'.of_frame rfl (frame_tick _) (by decide)
    · exact hs'.of_frame rfl (frame_writeKey _ k b) (by decide)
    · exact hs'.of_frame rfl (frame_setRedraw _ false) (by decide)
    · exact bootState_invariant hlen _
  · rw [hstuck] at hstep
    cases hstep

end Sys2Proof.Machine

/-! ## Proofs: SYS, UNRECOGNIZED, control transfer and the register skips (spec/40_sequencer.md, spec/41_flow.md,
spec/42_skip.md)

Each form is its word, its meaning and a frame; CALL and RET add what a push leaves on the stack and what a return
reads from it. -/

namespace Sys2Proof.Machine

/-! ### SYS, UNRECOGNIZED and the jumps -/

/-- Settles O23: SYS is an advance of pc, UNRECOGNIZED is one behind a report. -/
theorem sysAndUnrecognizedOnlyAdvance : Obligations.SysAndUnrecognizedOnlyAdvance := by
  intro s
  refine ⟨fun nnn hcls hret => ⟨decode_sys_word nnn hcls hret, ?_⟩, fun op hop => ⟨decode_unrecognized_word hop, ?_⟩⟩
  · exact ⟨_, exec_sys nnn s, rfl, frame_setPc s _⟩
  · exact ⟨_, exec_unrecognized op s, rfl, rfl, frame_report_seq s op⟩

/-- Settles O24: both jumps write pc alone, and the value that they write is exact. -/
theorem jumpsWriteTheirTarget : Obligations.JumpsWriteTheirTarget := by
  intro nnn s
  refine ⟨⟨decode_jp_word nnn, ?_⟩, ⟨decode_jpV0_word nnn, ?_⟩⟩
  · exact ⟨_, exec_jp nnn s, toNat_addrOperand nnn, frame_setPc s _⟩
  · exact ⟨_, exec_jpV0 nnn s, toNat_wideOperand_add_addrOperand _ nnn, frame_setPc s _⟩

/-! ### CALL and RET -/

theorem State.sp_push {s : State} (w : Word) (h : s.sp.val ≠ 16) : (s.push w).sp.val = s.sp.val + 1 := by
  show min (s.sp.val + 1) 16 = s.sp.val + 1
  omega

theorem State.sp_pop (s : State) : s.pop.sp.val = s.sp.val - 1 := rfl

/-- Settles O25: CALL is a push of pc and a jump, and the table of R202 gives its fault. -/
theorem callPushesItsAddress : Obligations.CallPushesItsAddress := by
  intro nnn s
  refine ⟨decode_call_word nnn, fun hsp => ?_, fun hsp => faultsWith_of_faultOf (if_pos hsp)⟩
  exact ⟨_, exec_call nnn hsp, State.stack_push s s.pc, State.sp_push s.pc hsp, toNat_addrOperand nnn,
    frame_push_setPc s _ _⟩

/-- Settles O26: RET reads the entry below SP and pops it, and the table of R202 gives its fault. -/
theorem returnResumesBehindTheCall : Obligations.ReturnResumesBehindTheCall := by
  intro s
  refine ⟨decode_ret_word, fun j hj => ?_, fun hsp => faultsWith_of_faultOf (if_pos hsp)⟩
  have hpop : s.pop.sp.val = j.val := by rw [State.sp_pop, hj, Nat.add_sub_cancel]
  have htop : s.top + 2 = s.stack[j] + 2 := by rw [State.top_eq hj]
  exact ⟨_, exec_ret (by omega), hpop, rfl, htop, frame_pop_setPc s _⟩

/-- Settles O27: the RET reads the entry that the CALL pushed, and takes SP back; the entries below are those before
the push. -/
theorem callThenReturnComesBack : Obligations.CallThenReturnComesBack := by
  intro nnn s hsp
  have hlt : s.sp.val < 16 := by omega
  have hsp' : ((s.push s.pc).setPc (addrOperand nnn)).sp.val = s.sp.val + 1 := State.sp_push s.pc hsp
  have htop : ((s.push s.pc).setPc (addrOperand nnn)).top = s.pc := by
    rw [State.top_eq (j := ⟨s.sp.val, hlt⟩) hsp']
    exact (State.stack_push s s.pc ⟨s.sp.val, hlt⟩).trans (if_pos rfl)
  refine ⟨_, _, exec_call nnn hsp, exec_ret (by omega), ?_, Fin.ext ?_, fun j hj => ?_, ?_⟩
  · exact congrArg (· + 2) htop
  · show State.sp (State.pop _) = s.sp.val
    rw [State.sp_pop, hsp', Nat.add_sub_cancel]
  · exact (State.stack_push s s.pc j).trans (if_neg (by omega))
  · exact (frame_push_setPc s _ _).trans (frame_pop_setPc _ _)

/-! ### The register skips -/

/-- A form that is a skip on `cond` selects pc + 4 or pc + 2, and writes pc alone. -/
theorem next_of_exec_eq_skipIf {i : Instr} {s : State} {cond : Bool} (hexec : exec i s = .next (s.skipIf cond)) :
    ∃ t, exec i s = .next t ∧ t.pc = (if cond then s.pc + 4 else s.pc + 2) ∧ Frame s t noReg [.pc] :=
  ⟨_, hexec, rfl, frame_setPc s _⟩

/-- A condition of inequality exchanges the two selections. -/
theorem ite_bne_eq {a b : Byte} {p q : Word} : (if (a != b) = true then p else q) = if a = b then q else p := by
  by_cases h : a = b <;> simp [h]

/-- Settles O28: the four forms are skips on the equality of their operands or on its negation; their words with
another low nibble stand in the table of R92. -/
theorem registerSkipsTakeTheirCondition : Obligations.RegisterSkipsTakeTheirCondition := by
  intro x y kk s
  refine ⟨⟨decode_seImm_word x kk, ?_⟩, ⟨decode_sneImm_word x kk, ?_⟩, ⟨decode_seReg_word x y, ?_⟩,
    ⟨decode_sneReg_word x y, ?_⟩, fun n hn => ⟨?_, ?_⟩⟩
  · simpa only [beq_iff_eq] using next_of_exec_eq_skipIf (exec_seImm x kk s)
  · simpa only [ite_bne_eq] using next_of_exec_eq_skipIf (exec_sneImm x kk s)
  · simpa only [beq_iff_eq] using next_of_exec_eq_skipIf (exec_seReg x y s)
  · simpa only [ite_bne_eq] using next_of_exec_eq_skipIf (exec_sneReg x y s)
  · exact decode_unrecognized_word ((unrecognizedWord_iff _).2 (by simp [hn]))
  · exact decode_unrecognized_word ((unrecognizedWord_iff _).2 (by simp [hn]))

end Sys2Proof.Machine

/-! ## Proofs: the forms with a flag, RND and ADD I (spec/43_alu.md R147..R152, spec/44_index_memory.md R161)

A form with a flag answers one of the two shared operations of Laws/Forms, so that what is left of its rule is the value
of the flag and of the result as numbers. -/

namespace Sys2Proof.Machine

/-! ### Flags as numbers -/

theorem flagByte_carry (a b : Byte) : flagByte (carry a b) = if 256 ≤ a.toNat + b.toNat then 1 else 0 := by
  simp [flagByte, carry]

theorem flagByte_notBorrow (a b : Byte) : flagByte (notBorrow a b) = if a.toNat < b.toNat then 0 else 1 := by
  by_cases h : b.toNat ≤ a.toNat
  · simp [flagByte, notBorrow, h]
  · simp [flagByte, notBorrow, h, Nat.lt_of_not_le h]

theorem toNat_flagByte (b : Bool) : (flagByte b).toNat = b.toNat := by cases b <;> rfl

theorem toNat_flagByte_lowBit (a : Byte) : (flagByte (lowBit a)).toNat = a.toNat % 2 := by
  rw [toNat_flagByte, lowBit, BitVec.getLsbD, Nat.toNat_testBit, pow_zero, Nat.div_one]

theorem toNat_flagByte_highBit (a : Byte) : (flagByte (highBit a)).toNat = a.toNat / 128 := by
  have hlt := a.isLt
  rw [toNat_flagByte, highBit, BitVec.getLsbD, Nat.toNat_testBit]
  omega

theorem toNat_sub_byte (a b : Byte) : (a - b).toNat = (a.toNat + 256 - b.toNat) % 256 := by
  have := b.isLt
  rw [BitVec.toNat_sub]
  congr 1
  omega

theorem toNat_shiftRight_one (a : Byte) : (a >>> 1).toNat = a.toNat / 2 := by
  rw [BitVec.toNat_ushiftRight, Nat.shiftRight_eq_div_pow]

theorem toNat_shiftLeft_one (a : Byte) : (a <<< 1).toNat = 2 * a.toNat % 256 := by
  rw [BitVec.toNat_shiftLeft, Nat.shiftLeft_eq, Nat.mul_comm]

/-! ### Addition, subtraction and the shifts -/

/-- A form that answers `writeFlagThenResult` of a flag and a result: the result in V[x] and, with x other than 15, the
flag in VF. -/
theorem next_of_exec_eq_writeFlagThenResult {i : Instr} {x : Reg} {f : Bool} {b : Byte} {s : State} (P Q : Byte → Prop)
    (hexec : exec i s = writeFlagThenResult f x b s) (hb : P b) (hf : Q (flagByte f)) :
    ∃ t, exec i s = .next t ∧ P (t.reg x) ∧ (x ≠ 15#4 → Q (t.reg 15#4)) ∧ t.pc = s.pc + 2 ∧
      Frame s t (fun r => r = x ∨ r = 15#4) [.pc] := by
  obtain ⟨t, hnext, hreg, hflag, hpc, hframe⟩ := writeFlagThenResult_spec f x b s
  exact ⟨t, hexec.trans hnext, hreg.symm ▸ hb, fun hx => (hflag hx).symm ▸ hf, hpc, hframe⟩

/-- Settles O31: the flag is the carry, and the result is the sum. -/
theorem addWritesCarryThenSum : Obligations.AddWritesCarryThenSum := by
  intro x y s
  exact ⟨decode_addReg_word x y,
    next_of_exec_eq_writeFlagThenResult (·.toNat = ((s.reg x).toNat + (s.reg y).toNat) % 256)
      (· = if 256 ≤ (s.reg x).toNat + (s.reg y).toNat then 1 else 0) (exec_addReg x y s) (BitVec.toNat_add _ _)
      (flagByte_carry _ _)⟩

/-- Settles O32: the flags are the two not-borrows, and the results are the two differences. -/
theorem subtractionsWriteNotBorrowThenDifference : Obligations.SubtractionsWriteNotBorrowThenDifference := by
  intro x y s
  refine ⟨⟨decode_subReg_word x y, ?_⟩, ⟨decode_subnReg_word x y, ?_⟩⟩
  · exact next_of_exec_eq_writeFlagThenResult (·.toNat = ((s.reg x).toNat + 256 - (s.reg y).toNat) % 256)
      (· = if (s.reg x).toNat < (s.reg y).toNat then 0 else 1) (exec_subReg x y s) (toNat_sub_byte _ _)
      (flagByte_notBorrow _ _)
  · exact next_of_exec_eq_writeFlagThenResult (·.toNat = ((s.reg y).toNat + 256 - (s.reg x).toNat) % 256)
      (· = if (s.reg y).toNat < (s.reg x).toNat then 0 else 1) (exec_subnReg x y s) (toNat_sub_byte _ _)
      (flagByte_notBorrow _ _)

/-- Settles O33: VF is the bit shifted out, and with x = 15 that flag is what is shifted. -/
theorem shiftsWriteBitOutThenShift : Obligations.ShiftsWriteBitOutThenShift := by
  intro x y s
  refine ⟨⟨decode_shr_word x y, ?_⟩, ⟨decode_shl_word x y, ?_⟩⟩
  · obtain ⟨t, hnext, hother, hself, hpc, hframe⟩ := writeFlagThenUpdate_spec (lowBit (s.reg x)) x (· >>> 1) s
    refine ⟨t, (exec_shr x y s).trans hnext, fun hx => ?_, fun hx => ?_, hpc, hframe⟩
    · obtain ⟨hres, hflag⟩ := hother hx
      exact ⟨by rw [hres, toNat_shiftRight_one], (congrArg _ hflag).trans (toNat_flagByte_lowBit _)⟩
    · refine (hself hx).trans ?_
      cases lowBit (s.reg x) <;> rfl
  · obtain ⟨t, hnext, hother, hself, hpc, hframe⟩ := writeFlagThenUpdate_spec (highBit (s.reg x)) x (· <<< 1) s
    refine ⟨t, (exec_shl x y s).trans hnext, fun hx => ?_, fun hx => ?_, hpc, hframe⟩
    · obtain ⟨hres, hflag⟩ := hother hx
      exact ⟨by rw [hres, toNat_shiftLeft_one], (congrArg _ hflag).trans (toNat_flagByte_highBit _)⟩
    · refine (congrArg _ (hself hx)).trans ?_
      have hlt := (s.reg x).isLt
      rw [toNat_shiftLeft_one, toNat_flagByte_highBit]
      omega

/-! ### RND and ADD I -/

/-- Settles O34: RND is a register write in the state that has counted the draw. -/
theorem randomByteIsMasked : Obligations.RandomByteIsMasked := by
  intro x kk s
  refine ⟨decode_rnd_word x kk, _, exec_rnd x kk s, fun k => ?_, rfl, rfl, frame_countDraw_setReg_seq s x _⟩
  simp [State.drawnByte]

/-- Settles O36: ADD I loads I with a 16-bit sum. -/
theorem indexAddWrapsAtSixteenBits : Obligations.IndexAddWrapsAtSixteenBits := by
  intro x s
  refine ⟨decode_addIndex_word x, next_of_exec_eq_setIndex (exec_addIndex x s) ?_⟩
  rw [BitVec.toNat_add, toNat_wideOperand]

end Sys2Proof.Machine

/-! ## Proofs: the memory transfers (spec/44_index_memory.md R163..R165, spec/20_memory.md R63..R73)

FX33 and FX55 store a list of bytes from I on (`storeAtIndex_spec`), FX65 loads registers (`State.reg_loadRegs`); the
round trip and the fetch of a stored word are read from the two. -/

namespace Sys2Proof.Machine

/-! ### FX33 -/

theorem toNat_ofNat_byte {k : Nat} (h : k < 256) : (BitVec.ofNat 8 k).toNat = k :=
  (BitVec.toNat_ofNat k 8).trans (Nat.mod_eq_of_lt h)

/-- Settles O37: the stored bytes are the decimal digits, most significant first. -/
theorem bcdStoresThreeDigits : Obligations.BcdStoresThreeDigits := by
  intro x s
  refine ⟨decode_ldBcd_word x, fun hi => ?_, fun hi => faultsWith_of_faultOf (if_pos hi)⟩
  obtain ⟨hstored, hkept, hpc, hframe⟩ := storeAtIndex_spec (decimalDigits (s.reg x)) s
  have hlt := (s.reg x).isLt
  refine ⟨_, exec_ldBcd x hi, ?_, ?_, ?_, hkept, hpc, hframe⟩
  · exact (congrArg _ (hstored 0 (Nat.zero_lt_succ _))).trans (toNat_ofNat_byte (by omega))
  · exact (congrArg _ (hstored 1 (by simp [decimalDigits]))).trans (toNat_ofNat_byte (by omega))
  · exact (congrArg _ (hstored 2 (by simp [decimalDigits]))).trans (toNat_ofNat_byte (by omega))

/-! ### FX55 and FX65 -/

/-- The registers are stored in their order from I on. -/
theorem readByte_storeRegs (s : State) {x r : Reg} (hr : r.toNat ≤ x.toNat) :
    (storeAtIndex (s.regsUpTo x) s).readByte (s.i.toNat + r.toNat) = s.reg r := by
  obtain ⟨hstored, -⟩ := storeAtIndex_spec (s.regsUpTo x) s
  rw [hstored r.toNat (by rw [State.regsUpTo_length]; omega), State.regsUpTo_getElem, BitVec.ofNat_toNat,
    BitVec.setWidth_eq]

/-- Settles O38: FX55 stores V[0..x]. -/
theorem storeRegistersToIndex : Obligations.StoreRegistersToIndex := by
  intro x s
  refine ⟨decode_storeRegs_word x, fun hi => ?_, fun hi => faultsWith_of_faultOf (if_pos hi)⟩
  obtain ⟨-, hkept, hpc, hframe⟩ := storeAtIndex_spec (s.regsUpTo x) s
  have hlen := s.regsUpTo_length x
  exact ⟨_, exec_storeRegs x hi, fun r hr => readByte_storeRegs s hr, fun a ha => hkept a (by omega), hpc, hframe⟩

/-- The registers up to x hold the bytes from I on after FX65. -/
theorem reg_loadRegs_of_le (s : State) {x r : Reg} (hr : r.toNat ≤ x.toNat) :
    (s.loadRegs (regCount x)).seq.reg r = s.readByte (s.i.toNat + r.toNat) := by
  have hlt : r.toNat < regCount x := Nat.lt_succ_of_le hr
  exact (State.reg_loadRegs s x.isLt r).trans (if_pos hlt)

theorem loadRegs_seq_pc (s : State) (count : Nat) : (s.loadRegs count).seq.pc = s.pc + 2 := by
  rw [State.loadRegs_eq]
  rfl

/-- Settles O39: FX65 loads V[0..x]. -/
theorem loadRegistersFromIndex : Obligations.LoadRegistersFromIndex := by
  intro x s
  refine ⟨decode_loadRegs_word x, fun hi => ?_, fun hi => faultsWith_of_faultOf (if_pos hi)⟩
  exact ⟨_, exec_loadRegs x hi, fun r => reg_loadRegs_of_le s, loadRegs_seq_pc s _, frame_loadRegs_seq s x⟩

/-- Settles O40: each register is loaded from the byte to which it was stored. -/
theorem storeThenLoadRestoresRegisters : Obligations.StoreThenLoadRestoresRegisters := by
  intro x s hi
  refine ⟨_, exec_storeRegs x hi, fun w => ⟨_, exec_loadRegs x hi, fun r hr => ?_⟩⟩
  exact (reg_loadRegs_of_le _ hr).trans (readByte_storeRegs s hr)

/-- Settles O41: the next word is the stored V[0] and V[1], and the step fetches it. -/
theorem storedWordIsTheNextInstruction : Obligations.StoredWordIsTheNextInstruction := by
  intro x s hrun hsched hx hi hpc hrange
  have hnextPc : (s.pc + 2).toNat = s.pc.toNat + 2 := toNat_add_two (by omega)
  have hindex : (s.pc + 2).toNat = s.i.toNat := congrArg _ hi.symm
  have hfetch : (storeAtIndex (s.regsUpTo x) s).fetchWord = wordOfBytes (s.reg 0#4) (s.reg 1#4) := by
    have hhi := readByte_storeRegs s (x := x) (r := 0#4) (Nat.zero_le _)
    have hlo := readByte_storeRegs s (x := x) (r := 1#4) hx
    show wordOfBytes ((storeAtIndex (s.regsUpTo x) s).readByte (s.pc + 2).toNat)
      ((storeAtIndex (s.regsUpTo x) s).readByte ((s.pc + 2).toNat + 1)) = _
    rw [hindex]
    exact congrArg₂ wordOfBytes hhi hlo
  have hfetchable : (storeAtIndex (s.regsUpTo x) s).pc.toNat ≤ 4094 := hnextPc.trans_le (by omega)
  refine ⟨_, exec_storeRegs x hrange, ?_⟩
  rw [step_of_idle (s := storeAtIndex (s.regsUpTo x) s) hrun hsched hfetchable, hfetch]

end Sys2Proof.Machine

/-! ## Proofs: the key forms (spec/46_keys_timers.md R180..R182)

The key skips answer a skip on the named key. FX0A answers a register write of the chosen key; which key that is, is a
fact of `selectKey` and of the ascending list of held keys. -/

namespace Sys2Proof.Machine

/-- Settles O47: the skips test the key that V[x] names, and the table of R202 gives their fault. -/
theorem keySkipsTestTheNamedKey : Obligations.KeySkipsTestTheNamedKey := by
  intro x s
  refine ⟨decode_skp_word x, decode_sknp_word x, fun k hk => ⟨?_, ?_⟩, fun hrange => ⟨?_, ?_⟩⟩
  · exact next_of_exec_eq_skipIf (exec_skp hk)
  · refine ⟨_, exec_sknp hk, ?_, frame_setPc s _⟩
    cases s.key k <;> rfl
  · exact faultsWith_of_faultOf (if_pos hrange)
  · exact faultsWith_of_faultOf (if_pos hrange)

/-! ### The chosen key -/

theorem heldKeys_eq_nil_iff (s : State) : s.heldKeys = [] ↔ ∀ k, s.key k = false := by
  simp [State.heldKeys, List.filter_eq_nil_iff]

theorem pairwise_heldKeys (s : State) : s.heldKeys.Pairwise (· < ·) :=
  (List.pairwise_lt_finRange 16).filter _

/-- The first held key is the lowest. -/
theorem le_of_head?_heldKeys {s : State} {k j : Key} (hk : s.heldKeys.head? = some k) (hj : s.key j = true) : k ≤ j := by
  have hpair := pairwise_heldKeys s
  have hmem := (s.mem_heldKeys j).2 hj
  obtain ⟨l, hl⟩ := List.head?_eq_some_iff.1 hk
  rw [hl] at hpair hmem
  rcases List.mem_cons.1 hmem with rfl | hmem
  · exact Nat.le_refl _
  · exact Nat.le_of_lt ((List.pairwise_cons.1 hpair).1 j hmem)

/-- The table's key is chosen where it is among the held ones. -/
theorem selectKey_of_lookup {choice : List (List Key × Key)} {held : List Key} {j : Key}
    (hj : choice.lookup held = some j) (hheld : j ∈ held) : selectKey choice held = some j := by
  simp [selectKey, hj, hheld]

/-- Settles O48: with no key held none is chosen; otherwise a held one is, the first of the list or the table's. -/
theorem keyWaitHoldsOrTakesAHeldKey : Obligations.KeyWaitHoldsOrTakesAHeldKey := by
  intro x s
  refine ⟨decode_ldVKey_word x, fun hnone => ?_, fun ⟨j, hj⟩ => ?_⟩
  · exact exec_ldVKey_of_none x ((selectKey_none_iff _ _).2 ((heldKeys_eq_nil_iff s).2 hnone))
  · cases hsel : selectKey s.params.keyChoice s.heldKeys with
    | none =>
      have hfree := (heldKeys_eq_nil_iff s).1 ((selectKey_none_iff _ _).1 hsel)
      rw [hfree j] at hj
      cases hj
    | some k =>
      obtain ⟨t, hnext, hreg, hpc, hframe⟩ := writeResult_spec x (BitVec.ofNat 8 k.val) s
      refine ⟨t, k, (exec_ldVKey_of_some x hsel).trans hnext, (s.mem_heldKeys k).1 (selectKey_mem hsel), ?_,
        fun hdefault j hj => ?_, fun j hlookup hj => ?_, hpc, hframe⟩
      · rw [hreg, toNat_ofNat_byte (by omega)]
      · rw [hdefault] at hsel
        exact le_of_head?_heldKeys hsel hj
      · rw [selectKey_of_lookup hlookup ((s.mem_heldKeys j).2 hj)] at hsel
        exact (Option.some.inj hsel).symm

end Sys2Proof.Machine

/-! ## Proofs: drawing (spec/45_display.md R171)

A sprite is drawn position by position (`drawRows_induct`), and position m uses the coordinates `b m`. As long as these
move forward by at most one pixel, no two positions land on the same pixel: that is why the pixels that change are
those landed on, and why a pixel that is met is still as it was at the start. `Drawing` says both of the first m
positions. The coordinates are constant where no register that is read changes; under PER_PIXEL they follow VF, which
is 0 up to the first collision and 1 behind it. -/

namespace Sys2Proof.Machine

/-! ### Where a position lands -/

/-- The m-th position of the sprite at I has a set bit and lands on the pixel (r, c), drawn with the coordinates b. -/
def landsAt (s : State) (b : Byte × Byte) (m : Nat) (r : Fin 32) (c : Fin 64) : Prop :=
  (s.indexByte (m / 8)).getLsbD (7 - m % 8) = true ∧ r.val = (b.2.toNat + m / 8) % 32 ∧ c.val = (b.1.toNat + m % 8) % 64

/-- The coordinates move forward by at most one pixel on each axis while a sprite is drawn. -/
def Advancing (b : Nat → Byte × Byte) : Prop :=
  ∀ k m, k ≤ m → ((b k).1.toNat ≤ (b m).1.toNat ∧ (b m).1.toNat ≤ (b k).1.toNat + 1) ∧
    ((b k).2.toNat ≤ (b m).2.toNat ∧ (b m).2.toNat ≤ (b k).2.toNat + 1)

/-- No later position lands on the same pixel: a sprite has fewer rows and columns than the display. -/
theorem Advancing.landsAt_disjoint {s : State} {b : Nat → Byte × Byte} (hb : Advancing b) {k m : Nat} (hkm : k < m)
    (hm : m < 8 * 16) {r : Fin 32} {c : Fin 64} (hk : landsAt s (b k) k r c) : ¬ landsAt s (b m) m r c := by
  rintro ⟨-, hrow, hcol⟩
  obtain ⟨-, hrow', hcol'⟩ := hk
  obtain ⟨⟨hx, hx'⟩, hy, hy'⟩ := hb k m hkm.le
  omega

/-- The pixel that a set bit lands on is met and flipped, and a bit of 0 does nothing. -/
theorem drawPosition_cases {base : State → Byte × Byte} {s t : State} {b : Byte × Byte} (m : Nat)
    (ht : DrawnFrom s t) (hbase : base t = b) :
    (∃ r c, (∀ p q, landsAt s b m p q ↔ p = r ∧ q = c) ∧ drawPosition base t m = plot r c t) ∨
    ((∀ p q, ¬ landsAt s b m p q) ∧ drawPosition base t m = t) := by
  by_cases hbit : (s.indexByte (m / 8)).getLsbD (7 - m % 8) = true
  · refine .inl ⟨screenRow b.2 (m / 8), screenCol b.1 (m % 8), fun p q => ?_, ?_⟩
    · simp [landsAt, hbit, screenRow, screenCol, Fin.ext_iff]
    · simp [drawPosition, drawColumn, spriteBit, ht.indexByte, hbit, hbase]
  · refine .inr ⟨fun p q hlands => hbit hlands.1, ?_⟩
    simp [drawPosition, drawColumn, spriteBit, ht.indexByte, hbit]

/-! ### The first m positions -/

/-- One of the first m positions meets a pixel that was on. -/
def collidesBefore (s : State) (b : Nat → Byte × Byte) (m : Nat) : Prop :=
  ∃ k < m, ∃ r c, landsAt s (b k) k r c ∧ s.pixel r c = true

/-- In `t` the first m positions of the sprite of `s` are drawn: the changed pixels and VF. -/
structure Drawing (s : State) (b : Nat → Byte × Byte) (m : Nat) (t : State) : Prop where
  pixel : ∀ r c, t.pixel r c ≠ s.pixel r c ↔ ∃ k < m, landsAt s (b k) k r c
  flagSet : collidesBefore s b m → t.reg vf = 1
  flagClear : ¬ collidesBefore s b m → t.reg vf = 0

theorem collidesBefore_succ {s : State} {b : Nat → Byte × Byte} {m : Nat} :
    collidesBefore s b (m + 1) ↔ collidesBefore s b m ∨ ∃ r c, landsAt s (b m) m r c ∧ s.pixel r c = true :=
  Nat.exists_lt_succ_right

theorem Drawing.flag_eq_one_iff {s t : State} {b : Nat → Byte × Byte} {m : Nat} (h : Drawing s b m t) :
    t.reg vf = 1 ↔ collidesBefore s b m := by
  refine ⟨fun hflag => ?_, h.flagSet⟩
  by_contra hno
  rw [h.flagClear hno] at hflag
  exact absurd hflag (by decide)

/-- A collision is a pixel that was on and is flipped. -/
theorem Drawing.collidesBefore_iff {s t : State} {b : Nat → Byte × Byte} {m : Nat} (h : Drawing s b m t) :
    collidesBefore s b m ↔ ∃ r c, s.pixel r c = true ∧ t.pixel r c = false := by
  constructor
  · rintro ⟨k, hk, r, c, hlands, hon⟩
    exact ⟨r, c, hon, by simpa [hon] using (h.pixel r c).2 ⟨k, hk, hlands⟩⟩
  · rintro ⟨r, c, hon, hoff⟩
    obtain ⟨k, hk, hlands⟩ := (h.pixel r c).1 (by simp [hon, hoff])
    exact ⟨k, hk, r, c, hlands, hon⟩

/-- With VF cleared nothing is drawn yet. -/
theorem Drawing.start (s : State) (b : Nat → Byte × Byte) : Drawing s b 0 (s.setReg vf 0) where
  pixel r c := by simp
  flagSet := fun ⟨_, hk, _⟩ => absurd hk (Nat.not_lt_zero _)
  flagClear _ := State.reg_setReg_same s vf 0

/-- A position lands on a pixel that no position before it has flipped. -/
theorem Drawing.next {base : State → Byte × Byte} {s t : State} {b : Nat → Byte × Byte} {m : Nat}
    (h : Drawing s b m t) (ht : DrawnFrom s t) (hb : Advancing b) (hm : m < 8 * 16) (hbase : base t = b m) :
    Drawing s b (m + 1) (drawPosition base t m) := by
  rcases drawPosition_cases m ht hbase with ⟨r, c, hlands, heq⟩ | ⟨hblank, heq⟩
  · have hfresh : t.pixel r c = s.pixel r c := by
      by_contra hne
      obtain ⟨k, hk, hlandsK⟩ := (h.pixel r c).1 hne
      exact hb.landsAt_disjoint hk hm hlandsK ((hlands r c).2 ⟨rfl, rfl⟩)
    have hcollides : collidesBefore s b (m + 1) ↔ collidesBefore s b m ∨ s.pixel r c = true := by
      simp [collidesBefore_succ, hlands]
    rw [heq]
    refine ⟨fun p q => ?_, fun hcol => ?_, fun hcol => ?_⟩
    · rw [plot_pixel, Nat.exists_lt_succ_right, hlands]
      by_cases hpq : p = r ∧ q = c
      · obtain ⟨rfl, rfl⟩ := hpq
        simp [hfresh]
      · simp [hpq, h.pixel]
    · rw [plot_vf, hfresh]
      split
      · rfl
      · next hoff => exact h.flagSet ((hcollides.1 hcol).resolve_right hoff)
    · rw [hcollides, not_or] at hcol
      rw [plot_vf, hfresh, if_neg hcol.2, h.flagClear hcol.1]
  · have hcollides : collidesBefore s b (m + 1) ↔ collidesBefore s b m := by
      simp [collidesBefore_succ, hblank]
    rw [heq]
    refine ⟨fun p q => ?_, fun hcol => h.flagSet (hcollides.1 hcol), fun hcol => h.flagClear (hcol ∘ hcollides.2)⟩
    rw [h.pixel, Nat.exists_lt_succ_right, or_iff_left (hblank p q)]

/-! ### The whole sprite -/

/-- The state that a DRW in range answers. -/
def State.afterDrw (s : State) (x y : Reg) (n : BitVec 4) : State :=
  ((drawRows (spriteBase x y s) n.toNat (s.setReg vf 0)).setRedraw true).seq

section
variable {x y : Reg} {n : BitVec 4} {s : State}

theorem exec_drw_afterDrw (h : n = 0#4 ∨ s.i.toNat + n.toNat ≤ 4096) :
    exec (.drw x y n) s = .next (s.afterDrw x y n) :=
  exec_drw x y h

theorem afterDrw_frame (x y : Reg) (n : BitVec 4) (s : State) :
    Frame s (s.afterDrw x y n) (· = 15#4) [.pc, .display, .redraw] :=
  (drawRows_cleared_drawnFrom _ _ s).frame_setRedraw_seq true

theorem afterDrw_pc (x y : Reg) (n : BitVec 4) (s : State) : (s.afterDrw x y n).pc = s.pc + 2 := by
  obtain ⟨f, d, hdrawn⟩ := drawRows_cleared_drawnFrom (spriteBase x y s) n.toNat s
  rw [State.afterDrw, hdrawn]
  rfl

theorem afterDrw_redraw (x y : Reg) (n : BitVec 4) (s : State) : (s.afterDrw x y n).redraw = true := rfl

/-- A sprite is drawn with the coordinates `b` where each position finds them, the positions before it being drawn. -/
theorem drawing_afterDrw {b : Nat → Byte × Byte} (hb : Advancing b)
    (hbase : ∀ m t, m < 8 * n.toNat → DrawnFrom s t → Drawing s b m t → spriteBase x y s t = b m) :
    Drawing s b (8 * n.toNat) (s.afterDrw x y n) := by
  have hn := n.isLt
  obtain ⟨-, hpixel, hset, hclear⟩ := drawRows_induct (base := spriteBase x y s) (n := n.toNat)
    (P := fun m t => DrawnFrom s t ∧ Drawing s b m t) (s := s.setReg vf 0) ⟨⟨0, s.disp, rfl⟩, .start s b⟩
    fun m t hm ⟨ht, hdrawing⟩ => ⟨ht.trans (drawColumn_drawnFrom ..),
      hdrawing.next ht hb (by omega) (hbase m t hm ht hdrawing)⟩
  exact ⟨hpixel, hset, hclear⟩

/-! ### Constant coordinates -/

/-- The coordinates of a sprite at the start of the instruction. -/
def State.coords (s : State) (x y : Reg) : Byte × Byte := (s.reg x, s.reg y)

theorem advancing_const (b : Byte × Byte) : Advancing fun _ => b := fun _ _ _ => by simp

theorem spriteBase_latched (h : s.params.drwCoordRead = .latched) (t : State) : spriteBase x y s t = s.coords x y := by
  simp [spriteBase, h, State.coords]

theorem spriteBase_perPixel (h : s.params.drwCoordRead = .perPixel) (t : State) :
    spriteBase x y s t = (t.reg x, t.reg y) := by
  simp [spriteBase, h]

/-- Coordinates that are latched, or read from registers that drawing does not write, stay as they are. -/
theorem drawing_const (h : s.params.drwCoordRead = .latched ∨ (x ≠ 15#4 ∧ y ≠ 15#4)) :
    Drawing s (fun _ => s.coords x y) (8 * n.toNat) (s.afterDrw x y n) := by
  refine drawing_afterDrw (advancing_const _) fun m t _ ht _ => ?_
  cases hread : s.params.drwCoordRead with
  | latched => exact spriteBase_latched hread t
  | perPixel =>
    obtain ⟨hx, hy⟩ := h.resolve_left (by simp [hread])
    rw [spriteBase_perPixel hread, ht.reg hx, ht.reg hy, State.coords]

/-- The sprite's set bits, row by row, are its positions. -/
theorem spriteHits_iff {n : Nat} {r : Fin 32} {c : Fin 64} :
    spriteHits s x y n r c ↔ ∃ m < 8 * n, landsAt s (s.coords x y) m r c := by
  constructor
  · rintro ⟨row, hrow, col, hcol, hbit, hr, hc⟩
    refine ⟨8 * row + col, by omega, ?_⟩
    rw [landsAt, show (8 * row + col) / 8 = row by omega, show (8 * row + col) % 8 = col by omega]
    exact ⟨hbit, hr, hc⟩
  · rintro ⟨m, hm, hbit, hr, hc⟩
    exact ⟨m / 8, by omega, m % 8, by omega, hbit, hr, hc⟩

theorem collidesBefore_const_iff {n : Nat} :
    collidesBefore s (fun _ => s.coords x y) (8 * n) ↔ ∃ r c, spriteHits s x y n r c ∧ s.pixel r c = true := by
  simp only [spriteHits_iff, collidesBefore]
  constructor
  · rintro ⟨k, hk, r, c, hlands, hon⟩
    exact ⟨r, c, ⟨k, hk, hlands⟩, hon⟩
  · rintro ⟨r, c, ⟨k, hk, hlands⟩, hon⟩
    exact ⟨k, hk, r, c, hlands, hon⟩

end

/-- Settles O43: the drawing with constant coordinates changes the pixels that are hit and no other. -/
theorem drawFlipsTheSpritePixels : Obligations.DrawFlipsTheSpritePixels := by
  intro x y n s hcoords hrange
  obtain ⟨hpixel, hset, hclear⟩ := drawing_const (n := n) hcoords
  simp only [← spriteHits_iff] at hpixel
  refine ⟨_, exec_drw_afterDrw (.inr hrange), fun r c hhit => ?_, fun r c hmiss => ?_, fun hon => ?_, fun hoff => ?_,
    afterDrw_redraw x y n s, afterDrw_pc x y n s, afterDrw_frame x y n s⟩
  · exact Bool.eq_not.2 ((hpixel r c).2 hhit)
  · exact not_not.1 (mt (hpixel r c).1 hmiss)
  · exact hset (collidesBefore_const_iff.2 hon)
  · exact hclear (mt collidesBefore_const_iff.1 hoff)

/-- Settles O45: the table of R202 gives the fault. -/
theorem drawBeyondMemoryFaults : Obligations.DrawBeyondMemoryFaults := by
  intro x y n s
  exact ⟨decode_drw_word x y n, fun hn hrange => faultsWith_of_faultOf (if_pos ⟨hn, hrange⟩)⟩

/-! ### The same sprite twice -/

/-- A first DRW leaves the bytes of the sprite. -/
theorem landsAt_afterDrw (x y : Reg) (n : BitVec 4) {s : State} {b : Byte × Byte} {m : Nat} {r : Fin 32} {c : Fin 64} :
    landsAt (s.afterDrw x y n) b m r c ↔ landsAt s b m r c := by
  have hbytes : (s.afterDrw x y n).indexByte (m / 8) = s.indexByte (m / 8) := by
    obtain ⟨f, d, hdrawn⟩ := drawRows_cleared_drawnFrom (spriteBase x y s) n.toNat s
    rw [State.afterDrw, hdrawn]
    rfl
  rw [landsAt, hbytes, landsAt]

/-- A pixel that changes at both of two steps, or at none, is as it was. -/
theorem eq_of_ne_iff_ne : ∀ {a b c : Bool}, (a ≠ b ↔ b ≠ c) → a = c := by decide

section
variable {x y : Reg} (n : BitVec 4) (s : State) (hx : x ≠ 15#4) (hy : y ≠ 15#4)
include hx hy

/-- Both draws have the same coordinates, as neither register is VF. -/
theorem coords_afterDrw : (s.afterDrw x y n).coords x y = s.coords x y := by
  obtain ⟨hreg, -⟩ := afterDrw_frame x y n s
  rw [State.coords, hreg x hx, hreg y hy, State.coords]

/-- Both draws change the same pixels, so that a pixel is changed twice or not at all. -/
theorem pixel_afterDrw_afterDrw (r : Fin 32) (c : Fin 64) :
    ((s.afterDrw x y n).afterDrw x y n).pixel r c = s.pixel r c := by
  have hfirst := drawing_const (n := n) (s := s) (.inr ⟨hx, hy⟩)
  have hsecond := drawing_const (n := n) (s := s.afterDrw x y n) (.inr ⟨hx, hy⟩)
  rw [coords_afterDrw n s hx hy] at hsecond
  refine eq_of_ne_iff_ne ((hsecond.pixel r c).trans ?_)
  simp only [hfirst.pixel, landsAt_afterDrw]

end

/-- Settles O46: the second draw turns off what the first turned on, as it restores every pixel. -/
theorem drawTwiceRestoresDisplay : Obligations.DrawTwiceRestoresDisplay := by
  intro x y n s hx hy hrange
  obtain ⟨-, hpart⟩ := afterDrw_frame x y n s
  have hindex : (s.afterDrw x y n).i = s.i := hpart .index (by decide)
  have hrestored := pixel_afterDrw_afterDrw n s hx hy
  have hsecond := drawing_const (n := n) (s := s.afterDrw x y n) (.inr ⟨hx, hy⟩)
  refine ⟨_, _, exec_drw_afterDrw (.inr hrange), exec_drw_afterDrw (.inr (hindex ▸ hrange)), hrestored, ?_⟩
  refine (hsecond.flag_eq_one_iff.trans hsecond.collidesBefore_iff).trans ?_
  simp only [hrestored, and_comm]

/-! ### Coordinates that follow VF -/

/-- VF at position m where k is the first position that meets a pixel that is on. -/
def flagBehind (k m : Nat) : Byte := if m ≤ k then 0 else 1

/-- The coordinates at position m under PER_PIXEL: a coordinate taken from VF moves behind the first collision. -/
def State.perPixelCoords (s : State) (x y : Reg) (k m : Nat) : Byte × Byte :=
  (if x = 15#4 then flagBehind k m else s.reg x, if y = 15#4 then flagBehind k m else s.reg y)

/-- k is the first of the 8 · n positions that meets a pixel that is on, or none does and k is behind them all. -/
structure FirstMeeting (s : State) (x y : Reg) (n k : Nat) : Prop where
  before : ∀ m < k, m < 8 * n → ¬ meetsPixelOn s x y m
  meets : k < 8 * n → meetsPixelOn s x y k

section
variable {s t : State} {x y : Reg} {k m : Nat}

theorem landsAt_perPixelCoords {r : Fin 32} {c : Fin 64} :
    landsAt s (s.perPixelCoords x y k m) m r c ↔ landsPerPixel s x y (flagBehind k m) m r c := Iff.rfl

theorem toNat_flagBehind (k m : Nat) : (flagBehind k m).toNat = if m ≤ k then 0 else 1 := by
  unfold flagBehind
  split <;> rfl

theorem advancing_perPixelCoords (s : State) (x y : Reg) (k : Nat) : Advancing (s.perPixelCoords x y k) := by
  have hflag (m m' : Nat) (h : m ≤ m') : (flagBehind k m).toNat ≤ (flagBehind k m').toNat ∧
      (flagBehind k m').toNat ≤ (flagBehind k m).toNat + 1 := by
    rw [toNat_flagBehind, toNat_flagBehind]
    split <;> split <;> omega
  intro m m' h
  constructor
  · by_cases hx : x = 15#4
    · simpa [State.perPixelCoords, hx] using hflag m m' h
    · simp [State.perPixelCoords, hx]
  · by_cases hy : y = 15#4
    · simpa [State.perPixelCoords, hy] using hflag m m' h
    · simp [State.perPixelCoords, hy]

/-- While the sprite is drawn VF is 0 up to the first meeting and 1 behind it. -/
theorem Drawing.reg_vf {n : Nat} (h : Drawing s (s.perPixelCoords x y k) m t) (hk : FirstMeeting s x y n k)
    (hm : m ≤ 8 * n) : t.reg vf = flagBehind k m := by
  by_cases hmk : m ≤ k
  · rw [flagBehind, if_pos hmk]
    refine h.flagClear ?_
    rintro ⟨j, hj, r, c, hlands, hon⟩
    rw [landsAt_perPixelCoords, flagBehind, if_pos (by omega)] at hlands
    exact hk.before j (by omega) (by omega) ⟨r, c, hlands, hon⟩
  · rw [flagBehind, if_neg hmk]
    obtain ⟨r, c, hlands, hon⟩ := hk.meets (by omega)
    refine h.flagSet ⟨k, by omega, r, c, ?_, hon⟩
    rwa [landsAt_perPixelCoords, flagBehind, if_pos (Nat.le_refl k)]

theorem DrawnFrom.reg_eq (h : DrawnFrom s t) (x : Reg) : t.reg x = if x = 15#4 then t.reg vf else s.reg x := by
  by_cases hx : x = 15#4
  · rw [if_pos hx, hx]
    rfl
  · rw [if_neg hx]
    exact h.reg hx

/-- Under PER_PIXEL the sprite is drawn with the coordinates that follow VF. -/
theorem drawing_perPixel {n : BitVec 4} (h : s.params.drwCoordRead = .perPixel)
    (hk : FirstMeeting s x y n.toNat k) : Drawing s (s.perPixelCoords x y k) (8 * n.toNat) (s.afterDrw x y n) := by
  refine drawing_afterDrw (advancing_perPixelCoords s x y k) fun m t hm ht hdrawing => ?_
  rw [spriteBase_perPixel h, ht.reg_eq x, ht.reg_eq y, hdrawing.reg_vf hk hm.le]
  rfl

end

/-- Settles O54: without a meeting the first one counts as behind the sprite, and VF is 0 throughout. -/
theorem perPixelDrawMovesBehindTheFirstCollision : Obligations.PerPixelDrawMovesBehindTheFirstCollision := by
  intro x y n s hread hrange
  refine ⟨_, exec_drw_afterDrw hrange, fun hnone => ?_, fun k hlt hmeets hbefore => ?_,
    afterDrw_redraw x y n s, afterDrw_pc x y n s, afterDrw_frame x y n s⟩
  · have hk : FirstMeeting s x y n.toNat (8 * n.toNat) := ⟨fun m _ hm => hnone m hm, fun h => absurd h (lt_irrefl _)⟩
    have hdrawing := drawing_perPixel hread hk
    refine ⟨(hdrawing.reg_vf hk le_rfl).trans (if_pos le_rfl), fun r c => (hdrawing.pixel r c).trans ?_⟩
    refine exists_congr fun m => and_congr_right fun hm => ?_
    rw [landsAt_perPixelCoords, flagBehind, if_pos hm.le]
  · have hk : FirstMeeting s x y n.toNat k := ⟨fun m hm _ => hbefore m hm, fun _ => hmeets⟩
    have hdrawing := drawing_perPixel hread hk
    exact ⟨(hdrawing.reg_vf hk le_rfl).trans (if_neg (by omega)), hdrawing.pixel⟩

/-! ### Both settings -/

theorem exists_firstMeeting (s : State) (x y : Reg) (n : Nat) : ∃ k, FirstMeeting s x y n k := by
  classical
  by_cases h : ∃ k, k < 8 * n ∧ meetsPixelOn s x y k
  · exact ⟨Nat.find h, fun m hm hlt hmeets => Nat.find_min h hm ⟨hlt, hmeets⟩, fun _ => (Nat.find_spec h).2⟩
  · exact ⟨8 * n, fun m _ hlt hmeets => h ⟨m, hlt, hmeets⟩, fun hlt => absurd hlt (lt_irrefl _)⟩

theorem exists_drawing_afterDrw (x y : Reg) (n : BitVec 4) (s : State) :
    ∃ b, Drawing s b (8 * n.toNat) (s.afterDrw x y n) := by
  cases hread : s.params.drwCoordRead with
  | latched => exact ⟨_, drawing_const (.inl hread)⟩
  | perPixel =>
    obtain ⟨k, hk⟩ := exists_firstMeeting s x y n.toNat
    exact ⟨_, drawing_perPixel hread hk⟩

/-- Settles O44: VF tells a collision under both settings, and an empty sprite has no position. -/
theorem drawFlagTellsPixelsTurnedOff : Obligations.DrawFlagTellsPixelsTurnedOff := by
  intro x y n s hrange
  obtain ⟨b, hdrawing⟩ := exists_drawing_afterDrw x y n s
  refine ⟨_, exec_drw_afterDrw hrange, ?_, hdrawing.flag_eq_one_iff.trans hdrawing.collidesBefore_iff, ?_,
    afterDrw_redraw x y n s, afterDrw_pc x y n s, afterDrw_frame x y n s⟩
  · by_cases hcol : collidesBefore s b (8 * n.toNat)
    · exact .inr (hdrawing.flagSet hcol)
    · exact .inl (hdrawing.flagClear hcol)
  · rintro rfl
    refine ⟨hdrawing.flagClear fun ⟨k, hk, _⟩ => absurd hk (Nat.not_lt_zero k), fun r c => ?_⟩
    by_contra hne
    obtain ⟨k, hk, -⟩ := (hdrawing.pixel r c).1 hne
    exact absurd hk (Nat.not_lt_zero k)

end Sys2Proof.Machine

/-! ## Proofs: what instructions do not read (spec/10_state.md R31, R38, spec/60_exceptions.md R208, R216)

The timers, the redraw flag and the return stack are read and written by few forms. `State.remap` maps these parts by
functions, and every form that leaves the mapped parts alone commutes with it: a changed sound timer or redraw flag, a
changed stack entry and a tick are such maps. What is left of each statement are the forms that touch its part. -/

namespace Sys2Proof.Machine

/-! ### Maps of the timers, the redraw flag and the stack -/

structure Remap where
  dt : Byte → Byte := id
  st : Byte → Byte := id
  redraw : Bool → Bool := id
  stack : Vector Word 16 → Vector Word 16 := id

def State.remap (s : State) (g : Remap) : State :=
  { s with dt := g.dt s.dt, st := g.st s.st, redraw := g.redraw s.redraw, stack := g.stack s.stack }

/-- The map leaves the parts among its four that the form reads or writes. -/
def Remap.Fixes (g : Remap) : Instr → Prop
  | .cls | .drw _ _ _ => g.redraw = id
  | .ret | .call _ => g.stack = id
  | .ldVDt _ | .ldDtV _ => g.dt = id
  | .ldStV _ => g.st = id
  | _ => True

section
variable {i : Instr} {s t u : State} (g : Remap)

theorem loadRegs_remap (count : Nat) : (s.remap g).loadRegs count = (s.loadRegs count).remap g :=
  List.foldl_hom (fun t : State => t.remap g) fun _ _ => rfl

theorem drawPosition_remap {base base' : State → Byte × Byte} (hbase : ∀ t, base' (t.remap g) = base t) (t : State)
    (m : Nat) : drawPosition base' (t.remap g) m = (drawPosition base t m).remap g := by
  have hbytes : (t.remap g).indexByte (m / 8) = t.indexByte (m / 8) := rfl
  have hpixel (r : Fin 32) (c : Fin 64) : (t.remap g).pixel r c = t.pixel r c := rfl
  simp only [drawPosition, drawColumn, plot, hbytes, hpixel, hbase]
  split
  · split <;> rfl
  · rfl

theorem drawRows_remap (x y : Reg) (n : Nat) (s t : State) :
    drawRows (spriteBase x y (s.remap g)) n (t.remap g) = (drawRows (spriteBase x y s) n t).remap g := by
  rw [drawRows_eq, drawRows_eq]
  exact List.foldl_hom (fun t : State => t.remap g) (drawPosition_remap g fun _ => rfl)

/-- A fault does not depend on the mapped parts. -/
theorem exec_remap_of_fault {c : FaultCause} (hfault : faultOf i s = some c) (h : exec i s = .next t) :
    exec i (s.remap g) = .next (t.remap g) := by
  rw [exec_of_faultOf hfault] at h
  cases h
  have hsame : faultOf i (s.remap g) = faultOf i s := faultOf_congr i (fun _ => rfl) rfl rfl
  exact exec_of_faultOf (hsame.trans hfault)

/-- FX65 in range. -/
theorem exec_loadRegs_remap {x : Reg} (hi : s.i.toNat + x.toNat ≤ 4095) :
    exec (.loadRegs x) (s.remap g) = .next ((s.loadRegs (regCount x)).seq.remap g) := by
  rw [exec_loadRegs (s := s.remap g) x hi, loadRegs_remap]
  rfl

/-- DRW in range sets redraw, whatever it was mapped to. -/
theorem exec_drw_afterDrw_remap {x y : Reg} {n : BitVec 4} (hi : n = 0#4 ∨ s.i.toNat + n.toNat ≤ 4096) :
    exec (.drw x y n) (s.remap g) = .next (((s.afterDrw x y n).remap g).setRedraw true) := by
  have hclear : (s.remap g).setReg vf 0 = (s.setReg vf 0).remap g := rfl
  rw [exec_drw (s := s.remap g) x y hi, hclear, drawRows_remap]
  rfl

variable {g}

/-- The answer at the mapped state is the mapped answer, whichever equation gives the answer. -/
theorem exec_remap_of_eq (h : exec i s = .next t) (hs : exec i s = .next u)
    (hremap : exec i (s.remap g) = .next (u.remap g)) : exec i (s.remap g) = .next (t.remap g) := by
  cases h.symm.trans hs
  exact hremap

/-- A form commutes with every map that leaves the parts which the form reads or writes. -/
theorem exec_remap (hg : g.Fixes i) (h : exec i s = .next t) : exec i (s.remap g) = .next (t.remap g) := by
  cases hfault : faultOf i s with
  | some c => exact exec_remap_of_fault g hfault h
  | none =>
    obtain ⟨gdt, gst, gredraw, gstack⟩ := g
    cases i with
    | cls | ldVDt | ldDtV | ldStV =>
      cases hg
      cases h
      rfl
    | ret =>
      have hsp := faultOf_ret_eq_none.1 hfault
      cases hg
      exact exec_remap_of_eq h (exec_ret hsp) (exec_ret hsp)
    | call nnn =>
      have hsp := faultOf_call_eq_none.1 hfault
      cases hg
      exact exec_remap_of_eq h (exec_call nnn hsp) (exec_call nnn hsp)
    | drw x y n =>
      have hi := faultOf_drw_eq_none.1 hfault
      cases hg
      exact exec_remap_of_eq h (exec_drw_afterDrw hi) (exec_drw_afterDrw_remap _ hi)
    | skp x =>
      obtain ⟨k, hk⟩ := faultOf_skp_eq_none.1 hfault
      exact exec_remap_of_eq h (exec_skp hk) (exec_skp hk)
    | sknp x =>
      obtain ⟨k, hk⟩ := faultOf_sknp_eq_none.1 hfault
      exact exec_remap_of_eq h (exec_sknp hk) (exec_sknp hk)
    | ldVKey x =>
      cases hsel : selectKey s.params.keyChoice s.heldKeys with
      | none => exact exec_remap_of_eq h (exec_ldVKey_of_none x hsel) (exec_ldVKey_of_none x hsel)
      | some k => exact exec_remap_of_eq h (exec_ldVKey_of_some x hsel) (exec_ldVKey_of_some x hsel)
    | ldBcd x =>
      have hi := faultOf_ldBcd_eq_none.1 hfault
      exact exec_remap_of_eq h (exec_ldBcd x hi) (exec_ldBcd x hi)
    | storeRegs x =>
      have hi := faultOf_storeRegs_eq_none.1 hfault
      exact exec_remap_of_eq h (exec_storeRegs x hi) (exec_storeRegs x hi)
    | loadRegs x =>
      have hi := faultOf_loadRegs_eq_none.1 hfault
      exact exec_remap_of_eq h (exec_loadRegs x hi) (exec_loadRegs_remap _ hi)
    | _ =>
      cases h
      rfl

end

/-! ### The sound timer, the redraw flag and the tick -/

/-- Settles O50: FX18 and the display forms write the part that is changed, and every other form commutes with the
change. -/
theorem soundTimerAndRedrawAreNotObserved : Obligations.SoundTimerAndRedrawAreNotObserved := by
  intro i s t b f h
  constructor
  · cases i with
    | ldStV x =>
      cases h
      exact ⟨s.reg x, rfl⟩
    | _ => exact ⟨b, exec_remap (g := { st := fun _ => b }) (by trivial) h⟩
  · cases i with
    | cls =>
      cases h
      exact ⟨true, rfl⟩
    | drw x y n =>
      cases hfault : faultOf (.drw x y n) s with
      | some c => exact ⟨f, exec_remap_of_fault { redraw := fun _ => f } hfault h⟩
      | none =>
        have hi := faultOf_drw_eq_none.1 hfault
        rw [exec_drw_afterDrw hi] at h
        cases h
        exact ⟨true, exec_drw_afterDrw_remap { redraw := fun _ => f } hi⟩
    | _ => exact ⟨f, exec_remap (g := { redraw := fun _ => f }) (by trivial) h⟩

/-- Settles O52: a tick maps the timers, and a form that neither reads nor writes one commutes with it. -/
theorem tickCommutesWithOtherForms : Obligations.TickCommutesWithOtherForms := by
  intro i s t hi h
  cases i with
  | ldVDt x => exact absurd rfl (hi x).1
  | ldDtV x => exact absurd rfl (hi x).2.1
  | ldStV x => exact absurd rfl (hi x).2.2
  | _ => exact exec_remap (g := { dt := countDown, st := countDown }) (by trivial) h

/-! ### Stack entries at or above SP -/

/-- The map that changes one stack entry. -/
def Remap.stackEntry (j : Fin 16) (w : Word) : Remap := { stack := (·.set j w) }

section
variable {s : State} {j : Fin 16} (w : Word)

/-- A return reads an entry below SP. -/
theorem top_remap_stackEntry (hj : s.sp.val ≤ j.val) (hsp : s.sp.val ≠ 0) :
    (s.remap (.stackEntry j w)).top = s.top := by
  have hne : j.val ≠ s.sp.val - 1 := by omega
  simp [State.top, State.remap, Remap.stackEntry, hne]

/-- A push writes the entry at SP: the changed one, which it overwrites, or another, which leaves the change. -/
theorem push_remap_stackEntry (v : Word) :
    ∃ w', (s.remap (.stackEntry j w)).push v = (s.push v).remap (.stackEntry j w') := by
  have hstack : (s.stack.set j w).setIfInBounds s.sp.val v =
      (s.stack.setIfInBounds s.sp.val v).set j (if s.sp.val = j.val then v else w) := by
    apply Vector.ext
    intro k hk
    simp only [Vector.getElem_set, Vector.getElem_setIfInBounds]
    grind
  exact ⟨_, congrArg (fun stack => { s.push v with stack := stack }) hstack⟩

end

/-- Settles O51: RET reads below the changed entry, a CALL writes the entry at SP, and every other form commutes with
the change. -/
theorem staleStackEntriesAreNotObserved : Obligations.StaleStackEntriesAreNotObserved := by
  intro i s t j w hj h
  suffices hremap : ∃ w', exec i (s.remap (.stackEntry j w)) = .next (t.remap (.stackEntry j w')) from hremap
  cases hfault : faultOf i s with
  | some c => exact ⟨w, exec_remap_of_fault _ hfault h⟩
  | none =>
    cases i with
    | ret =>
      have hsp := faultOf_ret_eq_none.1 hfault
      rw [exec_ret hsp] at h
      cases h
      refine ⟨w, ?_⟩
      rw [exec_ret (s := s.remap (.stackEntry j w)) hsp, top_remap_stackEntry w hj hsp]
      rfl
    | call nnn =>
      have hsp := faultOf_call_eq_none.1 hfault
      rw [exec_call nnn hsp] at h
      cases h
      obtain ⟨w', hpush⟩ := push_remap_stackEntry w s.pc
      have hpc : (s.remap (.stackEntry j w)).pc = s.pc := rfl
      refine ⟨w', ?_⟩
      rw [exec_call (s := s.remap (.stackEntry j w)) nnn hsp, hpc, hpush]
      rfl
    | _ => exact ⟨w, exec_remap (by trivial) h⟩

end Sys2Proof.Machine
